-- ==== Sys2Proof/Word.lean ====
section
/-! DEFINITION. The bit vectors of the machine, one name per width of spec/00_scope.md R6. -/
namespace Sys2Proof

/-- WORD_WIDTH = AC_WIDTH = 16 (R6): an instruction word, or the contents of AC. -/
abbrev Word := BitVec 16

/-- One byte of data memory or of a cache line (R26, R23). -/
abbrev Byte := BitVec 8

/-- OPCODE_WIDTH = 4 (R6, R50). -/
abbrev Opcode := BitVec 4

/-- OPERAND_WIDTH = 12 (R6, R50). -/
abbrev Operand := BitVec 12

/-- PC_WIDTH = EA_WIDTH = 17 (R6, R16, R52): an instruction address or a data effective address. -/
abbrev Addr := BitVec 17

/-- TAG_WIDTH = 13 (R6, R23). -/
abbrev Tag := BitVec 13

end Sys2Proof
end

