-- ==== Sys2Proof/Syntax.lean ====
section
/-! DEFINITION. The instructions: one constructor per row of spec/opcode_table.json. -/
namespace Sys2Proof

/-- An instruction (spec/30_encoding.md R53). `n` is the operand the instruction uses (R52); `x` is the operand
field of an instruction that ignores it, kept so that a word and its instruction determine each other. -/
inductive Instr where
  /-- Opcode 0, no operation (R79). -/
  | start (x : Operand)
  /-- Opcode 1, load immediate (R66). -/
  | load (n : Operand)
  /-- Opcode 2, load byte from memory (R67). -/
  | loadm (n : Operand)
  /-- Opcode 3, store the low byte of AC (R68). -/
  | store (n : Operand)
  /-- Opcode 4, compare the low byte of AC with a memory byte (R69). -/
  | cmpm (n : Operand)
  /-- Opcode 5, jump if the last comparison was greater (R70). -/
  | cjmp (n : Operand)
  /-- Opcode 6, jump (R71). -/
  | jmp (n : Operand)
  /-- Opcode 7, add immediate (R73). -/
  | add (n : Operand)
  /-- Opcode 8, add memory byte (R74). -/
  | addm (n : Operand)
  /-- Opcode 9, subtract immediate (R75). -/
  | sub (n : Operand)
  /-- Opcode 10, subtract memory byte (R76). -/
  | subm (n : Operand)
  /-- Opcode 11, multiply by immediate (R77). -/
  | mul (n : Operand)
  /-- Opcode 12, multiply by memory byte (R78). -/
  | mulm (n : Operand)
  /-- Opcode 13, display (R80). -/
  | disp (x : Operand)
  /-- Opcode 14, stop (R81). -/
  | halt (x : Operand)
  /-- Opcode 15, the illegal opcode, row ILLEGAL_15 of the table (R82). -/
  | illegal15 (x : Operand)
  deriving DecidableEq, Repr

end Sys2Proof
end

