-- ==== Sys2Proof/Decode.lean ====
section
/-! DEFINITION. Decoding and encoding (spec/30_encoding.md R50, R53, spec/40_execution_cycle.md R60). Decoding is total:
"every 16-bit word decodes to exactly one of the 16 rows" (R54); the illegal words decode, by name, to `illegal15`. -/
namespace Sys2Proof

/-- The opcode field, bits 15:12 (R50). -/
def opcodeField (w : Word) : Opcode := w.extractLsb' 12 4

/-- The operand field, bits 11:0 (R50). -/
def operandField (w : Word) : Operand := w.extractLsb' 0 12

/-- The opcode map of R53. -/
def decodeFields (op : Opcode) (n : Operand) : Instr :=
  match op.toNat with
  | 0 => .start n
  | 1 => .load n
  | 2 => .loadm n
  | 3 => .store n
  | 4 => .cmpm n
  | 5 => .cjmp n
  | 6 => .jmp n
  | 7 => .add n
  | 8 => .addm n
  | 9 => .sub n
  | 10 => .subm n
  | 11 => .mul n
  | 12 => .mulm n
  | 13 => .disp n
  | 14 => .halt n
  | _ => .illegal15 n

/-- The instruction of a fetched word (R60). -/
def decode (w : Word) : Instr := decodeFields (opcodeField w) (operandField w)

/-- The opcode of an instruction (R53). -/
def Instr.opcode : Instr → Opcode
  | .start _ => 0
  | .load _ => 1
  | .loadm _ => 2
  | .store _ => 3
  | .cmpm _ => 4
  | .cjmp _ => 5
  | .jmp _ => 6
  | .add _ => 7
  | .addm _ => 8
  | .sub _ => 9
  | .subm _ => 10
  | .mul _ => 11
  | .mulm _ => 12
  | .disp _ => 13
  | .halt _ => 14
  | .illegal15 _ => 15

/-- The operand field of an instruction, used or ignored (R52). -/
def Instr.operand : Instr → Operand
  | .start x => x
  | .load n => n
  | .loadm n => n
  | .store n => n
  | .cmpm n => n
  | .cjmp n => n
  | .jmp n => n
  | .add n => n
  | .addm n => n
  | .sub n => n
  | .subm n => n
  | .mul n => n
  | .mulm n => n
  | .disp x => x
  | .halt x => x
  | .illegal15 x => x

/-- The word of an instruction: the opcode in the high four bits (R50). -/
def encode (i : Instr) : Word := i.opcode ++ i.operand

/-- The memory-referencing instructions (spec/00_scope.md, glossary): those that access the cache. -/
def Instr.refersToMemory : Instr → Bool
  | .loadm _ => true
  | .store _ => true
  | .cmpm _ => true
  | .addm _ => true
  | .subm _ => true
  | .mulm _ => true
  | .start _ => false
  | .load _ => false
  | .cjmp _ => false
  | .jmp _ => false
  | .add _ => false
  | .sub _ => false
  | .mul _ => false
  | .disp _ => false
  | .halt _ => false
  | .illegal15 _ => false

/-- The instruction word whose low `nbits` bits are those of `w` and whose other bits are 0. -/
def tableWord (nbits w : Nat) : Word := BitVec.ofNat 16 (w % 2 ^ nbits)

/-- The instruction read from an instruction numbered as spec/opcode_table.json numbers it; an instruction is always
one word of 16 bits (R55). -/
def decodeTableWord (nbits w : Nat) : Option Instr :=
  if nbits ≤ 16 then some (decode (tableWord nbits w)) else none

end Sys2Proof
end

