-- ==== Sys2Proof/Config.lean ====
section
/-! DEFINITION. The parameters the machine is built with: the fixed sizes of spec/00_scope.md R6 and the launch
parameters of R8, which the host hands over before the first step. -/
namespace Sys2Proof

/-- MEM_SIZE (R6): bytes of data memory, at addresses 0 to 65535. -/
@[simp] def memSize : Nat := 65536

/-- NUM_LINES (R6): lines of the cache. -/
abbrev numLines : Nat := 8

/-- The comparison flag, "tri-state" (R18). -/
inductive Flag where
  /-- GreaterThan (+1). -/
  | gt
  /-- Equal (0). -/
  | eq
  /-- LessThan (−1). -/
  | lt
  deriving DecidableEq, Repr

/-- OOB_POLICY (R8, R49): what a Memory access outside [0, 65536) does. -/
inductive OobPolicy where
  /-- Counted, reported and absorbed: the source's normative behaviour. -/
  | absorb
  /-- A fault that ends the run. -/
  | fatal
  deriving DecidableEq, Repr

/-- Data memory: the bytes that differ from what an unlisted address reads as, by rising address.
`Memory.wf` (WellFormed.lean) is that canonical form. -/
abbrev Memory := List Host.Cell

/-- What an unlisted address reads as: data memory is "zero-initialized at creation" (R26). -/
def Memory.unlisted : Byte := 0

/-- The launch parameters of R8. N is the length of `imem`; LA and PC0 have the 16 bits their range
0 to 65535 needs. -/
structure Launch where
  /-- LA, the load address (R21). -/
  la : BitVec 16
  /-- PC0, the initial program counter (R98). -/
  pc0 : BitVec 16
  /-- IMEM, the instruction table (R22). -/
  imem : List Word
  /-- MEM_INIT, the data memory before the first step (R26). -/
  memInit : Memory := []
  /-- FLAG_RESET, default EQ (R18). -/
  flagReset : Flag := .eq
  /-- OOB_POLICY, default ABSORB (R49). -/
  oobPolicy : OobPolicy := .absorb
  deriving DecidableEq, Repr

end Sys2Proof
end

