-- ==== Sys2Proof/Machine/State.lean ====
section
/-! DEFINITION. The state of the block and its environment (spec/10_state.md R13), the reasons a step can stop, and the
state after reset (spec/70_reset_and_hazards.md R98). -/
namespace Sys2Proof.Machine

/-- `halt_reason` (R20): why the run ended. Its codes are `haltReasonCode` (Flags.lean). -/
inductive HaltReason where
  /-- Still running. -/
  | none
  /-- The HALT instruction. -/
  | halt
  /-- A fetch outside the program (R85). -/
  | pcOutOfBounds
  /-- Opcode 15 (R84). -/
  | unknownOpcode
  deriving DecidableEq, Repr

/-- The kind a MemoryOutOfBounds condition records (R86). -/
inductive AccessKind where
  | read
  | write
  deriving DecidableEq, Repr

/-- What the block emits (R12, R95). -/
inductive Event where
  /-- One per DISP. -/
  | display (v : Word)
  /-- One per absorbed MemoryOutOfBounds: the address and the kind. -/
  | diag (addr : Addr) (kind : AccessKind)
  /-- One per fatal condition. -/
  | report (reason : HaltReason)
  deriving DecidableEq, Repr

/-- One cache line (R23): no dirty bit, no replacement state. -/
structure CacheLine where
  valid : Bool
  tag : Tag
  /-- data[0], the byte at the even address of the block. -/
  data0 : Byte
  /-- data[1], the byte at the odd address of the block. -/
  data1 : Byte
  deriving DecidableEq, Repr

/-- The line of an empty cache (R23): invalid, tag and data 0. -/
def CacheLine.empty : CacheLine := ⟨false, 0, 0, 0⟩

/-- The state of the block and its environment (R13), the event stream (R98) and the launch switch OOB_POLICY (R8). -/
structure State where
  /-- The accumulator (R14). -/
  ac : Word
  /-- The program counter (R16). -/
  pc : Addr
  /-- The comparison flag (R18). -/
  flag : Flag
  /-- The run state: Halted when true (R19). -/
  halted : Bool
  /-- Why the run ended (R20). -/
  haltReason : HaltReason
  /-- The load address (R21). -/
  la : BitVec 16
  /-- The instruction table; its length is N (R22). -/
  imem : List Word
  /-- The cache lines 0 to 7 (R23). -/
  lines : Vector CacheLine numLines
  /-- Cache hits, unbounded (R24). -/
  hits : Nat
  /-- Cache misses, unbounded (R24). -/
  misses : Nat
  /-- MemoryOutOfBounds conditions, unbounded (R25). -/
  oobCount : Nat
  /-- Data memory (R26). -/
  mem : Memory
  /-- The events emitted so far, oldest first (R12, R65). -/
  events : List Event
  /-- The launch switch OOB_POLICY, which no step changes (R8, R49). -/
  oobPolicy : OobPolicy
  deriving DecidableEq, Repr

/-- N, the number of instructions (R22). -/
abbrev State.n (s : State) : Nat := s.imem.length

/-- What ends a run without a successor state. -/
inductive Fault where
  /-- A Memory byte access outside [0, 65536) under OOB_POLICY = FATAL, raised by the cache's Memory accesses for
  LOADM, STORE, CMPM, ADDM, SUBM and MULM: "the model records the fault MemoryOutOfBounds(addr, kind) and ends
  the run as faulted" (R49). Safe: it is the specified behaviour, and nothing is claimed of what follows. -/
  | memoryOutOfBounds (addr : Addr) (kind : AccessKind)
  deriving DecidableEq, Repr

/-- Why an instruction has no meaning in the model. -/
inductive Refusal where
  /-- Raised by an arm of `exec` whose instruction has no meaning yet; no arm does. Safe. -/
  | notModelled (mnemonic : String)
  deriving DecidableEq, Repr

/-- The state after reset for given launch parameters (R98). -/
def State.ofLaunch (l : Launch) : State where
  ac := 0
  pc := l.pc0.setWidth 17
  flag := l.flagReset
  halted := false
  haltReason := .none
  la := l.la
  imem := l.imem
  lines := Vector.replicate numLines CacheLine.empty
  hits := 0
  misses := 0
  oobCount := 0
  mem := l.memInit
  events := []
  oobPolicy := l.oobPolicy

/-- The launch the model's reset state takes: no program, memory all zero, FLAG_RESET and OOB_POLICY at the spec's
defaults. DESIGN CHOICE (unsafe): LA = PC0 = 0 and N = 0, for which the spec has no default
(notes/assumptions/1.md). -/
def bareLaunch : Launch := { la := 0, pc0 := 0, imem := [] }

/-- The machine right after reset, with nothing loaded (R98). -/
def State.reset : State := State.ofLaunch bareLaunch

end Sys2Proof.Machine
end

