-- ==== Sys2Proof/Machine/Ops.lean ====
section
/-! DEFINITION. The shared operations: the register updates, the bytes of data memory, the Memory behind the cache
(spec/20_memory.md R31, R32, R49), the cache controller (R35 to R39), instruction fetch
(spec/40_execution_cycle.md R58) and stopping the engine (R59, R81, R82), which is all this block has in the place
of taking an exception. -/
namespace Sys2Proof

/-- The byte of data memory at address `a` (R26). -/
def Memory.read : Memory → Nat → Byte
  | [], _ => Memory.unlisted
  | (k, v) :: m, a => if k = a then v else Memory.read m a

/-- Data memory with byte `a` set to `v`, in canonical form again. -/
def Memory.write : Memory → Nat → Byte → Memory
  | [], a, v => if v = Memory.unlisted then [] else [(a, v)]
  | (k, w) :: m, a, v =>
    if a < k then (if v = Memory.unlisted then (k, w) :: m else (a, v) :: (k, w) :: m)
    else if a = k then (if v = Memory.unlisted then m else (a, v) :: m)
    else (k, w) :: Memory.write m a v

namespace Machine

/-! The register updates. -/

/-- Writes AC. -/
def State.setAc (s : State) (v : Word) : State := { s with ac := v }
/-- Writes PC. -/
def State.setPc (s : State) (a : Addr) : State := { s with pc := a }
/-- Writes FLAG. -/
def State.setFlag (s : State) (f : Flag) : State := { s with flag := f }
/-- Writes data memory. -/
def State.setMem (s : State) (m : Memory) : State := { s with mem := m }
/-- Writes cache line `i`. -/
def State.setLine (s : State) (i : Fin 8) (l : CacheLine) : State := { s with lines := s.lines.set i l }
/-- Records a cache hit (R38). -/
def State.countHit (s : State) : State := { s with hits := s.hits + 1 }
/-- Records a cache miss (R38). -/
def State.countMiss (s : State) : State := { s with misses := s.misses + 1 }
/-- Counts a MemoryOutOfBounds condition (R25). -/
def State.countOob (s : State) : State := { s with oobCount := s.oobCount + 1 }
/-- `emit e`: appends to the event stream (R12). -/
def State.emit (s : State) (e : Event) : State := { s with events := s.events ++ [e] }
/-- Stops the engine (R19, R20). -/
def State.stop (s : State) (r : HaltReason) : State := { s with halted := true, haltReason := r }

/-- The PC update of an instruction that does not set PC (R61). -/
def State.advance (s : State) : State := s.setPc (s.pc + 1)

/-- Raises a fatal condition (R12, R89): the engine stops and reports. Nothing is saved, there is no vector, and there is
no return (R90); the PC update of the step, if it has one, is the caller's. -/
def State.raiseFatal (s : State) (r : HaltReason) : State := (s.stop r).emit (.report r)

/-! Instruction fetch. -/

/-- PC is in range (R17): LA ≤ PC < LA + N. -/
def State.pcInRange (s : State) : Bool :=
  decide (s.la.toNat ≤ s.pc.toNat) && decide (s.pc.toNat < s.la.toNat + s.n)

/-- `Fetch(PC)` (R58): the word at table index PC − LA, or nothing where the fetch fails. -/
def fetch (s : State) : Option Word :=
  if s.pcInRange then s.imem[s.pc.toNat - s.la.toNat]? else none

/-! The Memory behind the cache: one byte a request (R34). -/

/-- A Memory byte access outside [0, 65536): counted and reported, or a fault (R31, R32, R49, R86). -/
def reportOutOfBounds (addr : Addr) (kind : AccessKind) (s : State) : Except Fault State :=
  match s.oobPolicy with
  | .absorb => .ok (s.countOob.emit (.diag addr kind))
  | .fatal => .error (.memoryOutOfBounds addr kind)

/-- `MemRead(addr, 1)` (R31). -/
def memRead (addr : Addr) (s : State) : Except Fault (Byte × State) :=
  if addr.toNat < memSize then .ok (s.mem.read addr.toNat, s)
  else
    match reportOutOfBounds addr .read s with
    | .ok s' => .ok (0, s')
    | .error f => .error f

/-- `MemWrite(addr, 1, v)` (R32). -/
def memWrite (addr : Addr) (v : Byte) (s : State) : Except Fault State :=
  if addr.toNat < memSize then .ok (s.setMem (s.mem.write addr.toNat v))
  else reportOutOfBounds addr .write s

/-! The cache controller. -/

/-- offset(a) = a mod 2 (R35). -/
def addrOffset (a : Addr) : BitVec 1 := a.extractLsb' 0 1

/-- index(a) = (a div 2) mod 8 (R35). -/
def addrIndex (a : Addr) : Fin 8 := (a.extractLsb' 1 3).toFin

/-- tag(a) = a div 16 (R35), never truncated. -/
def addrTag (a : Addr) : Tag := a.extractLsb' 4 13

/-- The first address of the block of `a`: a − offset(a) (R35). -/
def blockStart (a : Addr) : Addr := a - (addrOffset a).setWidth 17

/-- `line.data[o]`. -/
def CacheLine.byte (l : CacheLine) (o : BitVec 1) : Byte := if o = 0 then l.data0 else l.data1

/-- `line.data[o] <- v`. -/
def CacheLine.setByte (l : CacheLine) (o : BitVec 1) (v : Byte) : CacheLine :=
  if o = 0 then { l with data0 := v } else { l with data1 := v }

/-- The one line that can hold the block of `ea` (R39). -/
def State.lineOf (s : State) (ea : Addr) : CacheLine := s.lines[addrIndex ea]

/-- The addressed line is valid and its tag matches (R36, R37). -/
def State.isHit (s : State) (ea : Addr) : Bool :=
  (s.lineOf ea).valid && decide ((s.lineOf ea).tag = addrTag ea)

/-- Reads the block of `ea` from the Memory, offset 0 first (D27), and installs it over line index(ea),
whatever the line held (R36, R39). -/
def fillLine (ea : Addr) (s : State) : Except Fault State := do
  let (b0, s) ← memRead (blockStart ea) s
  let (b1, s) ← memRead (blockStart ea + 1) s
  return s.setLine (addrIndex ea) { valid := true, tag := addrTag ea, data0 := b0, data1 := b1 }

/-- `CacheRead(ea)` (R36). -/
def cacheRead (ea : Addr) (s : State) : Except Fault (Byte × State) :=
  if s.isHit ea then
    .ok ((s.lineOf ea).byte (addrOffset ea), s.countHit)
  else do
    let s ← fillLine ea s.countMiss
    return ((s.lineOf ea).byte (addrOffset ea), s)

/-- `line[index(ea)].data[offset(ea)] <- b`. -/
def State.setCachedByte (s : State) (ea : Addr) (b : Byte) : State :=
  s.setLine (addrIndex ea) ((s.lineOf ea).setByte (addrOffset ea) b)

/-- `CacheWrite(ea, b)` (R37): the Memory first, then the tag check; on a miss the block is read after that write. -/
def cacheWrite (ea : Addr) (b : Byte) (s : State) : Except Fault State := do
  let s ← memWrite ea b s
  if s.isHit ea then
    return s.countHit.setCachedByte ea b
  else
    let s ← fillLine ea s.countMiss
    return s.setCachedByte ea b

end Machine
end Sys2Proof
end

