-- ==== Sys2Proof/Machine/Operands.lean ====
section
/-! DEFINITION. The operand forms of spec/30_encoding.md R52. The operand is "always the raw 12-bit field": never
sign-extended, scaled or shifted. -/
namespace Sys2Proof.Machine

/-- The immediate form: `zext_16(operand)`. -/
def immediate (n : Operand) : Word := n.setWidth 16

/-- LA + operand, the exact 17-bit sum of the data-address and jump-target forms. -/
def State.relative (s : State) (n : Operand) : Addr := s.la.setWidth 17 + n.setWidth 17

/-- A memory byte as the unsigned second operand of 16 bits (R67, R72). -/
def zext16 (b : Byte) : Word := b.setWidth 16

/-- AC[7:0], the byte STORE stores and CMPM compares (R68, R69). -/
def State.acLow (s : State) : Byte := s.ac.setWidth 8

/-- Runs an instruction that reads one memory byte through the cache at LA + operand and goes on with that byte and the
state after the access. -/
def withMemoryByte (n : Operand) (s : State) (k : Byte → State → State) : Host.Outcome State Fault Refusal :=
  match cacheRead (s.relative n) s with
  | .ok (b, s') => .next (k b s')
  | .error f => .fault f

end Sys2Proof.Machine
end

