-- ==== Sys2Proof/Machine/Arithmetic.lean ====
section
/-! DEFINITION. ADD, ADDM, SUB, SUBM, MUL and MULM (spec/43_arithmetic.md): 16-bit arithmetic modulo 65536, which writes
no flag (R72). -/
namespace Sys2Proof.Machine

/-- ADD (R73): `AC <- (AC + operand) mod 65536`. -/
def execAdd (n : Operand) (s : State) : Host.Outcome State Fault Refusal :=
  .next (s.setAc (s.ac + immediate n)).advance

/-- ADDM (R74): `AC <- (AC + zext_16(CacheRead(ea))) mod 65536`. -/
def execAddm (n : Operand) (s : State) : Host.Outcome State Fault Refusal :=
  withMemoryByte n s fun b s' => (s'.setAc (s.ac + zext16 b)).advance

/-- SUB (R75): `AC <- (AC − operand) mod 65536`. -/
def execSub (n : Operand) (s : State) : Host.Outcome State Fault Refusal :=
  .next (s.setAc (s.ac - immediate n)).advance

/-- SUBM (R76): `AC <- (AC − zext_16(CacheRead(ea))) mod 65536`. -/
def execSubm (n : Operand) (s : State) : Host.Outcome State Fault Refusal :=
  withMemoryByte n s fun b s' => (s'.setAc (s.ac - zext16 b)).advance

/-- MUL (R77): `AC <- (AC * operand) mod 65536`. -/
def execMul (n : Operand) (s : State) : Host.Outcome State Fault Refusal :=
  .next (s.setAc (s.ac * immediate n)).advance

/-- MULM (R78): `AC <- (AC * zext_16(CacheRead(ea))) mod 65536`. -/
def execMulm (n : Operand) (s : State) : Host.Outcome State Fault Refusal :=
  withMemoryByte n s fun b s' => (s'.setAc (s.ac * zext16 b)).advance

end Sys2Proof.Machine
end

