-- ==== Sys2Proof/Machine/Flags.lean ====
section
/-! DEFINITION. The comparison of CMPM and the encodings of the flag and of the halt reason. -/
namespace Sys2Proof.Machine

/-- The three-way unsigned comparison of spec/42_compare_jump.md R69. -/
def compareBytes (a m : Byte) : Flag :=
  if m.toNat < a.toNat then .gt else if a = m then .eq else .lt

/-- The source's value of the flag: +1, 0 or −1 (spec/10_state.md R18). -/
def flagValue : Flag → Int
  | .gt => 1
  | .eq => 0
  | .lt => -1

/-- FLAG in its two bits (R18): 0b10 is never held. -/
def flagBits : Flag → BitVec 2
  | .gt => 0b01
  | .eq => 0b00
  | .lt => 0b11

/-- `halt_reason` in its two bits (R20). -/
def haltReasonCode : HaltReason → BitVec 2
  | .none => 0
  | .halt => 1
  | .pcOutOfBounds => 2
  | .unknownOpcode => 3

end Sys2Proof.Machine
end

