-- ==== Sys2Proof/Machine/CompareJump.lean ====
section
/-! DEFINITION. CMPM, CJMP and JMP (spec/42_compare_jump.md). -/
namespace Sys2Proof.Machine

/-- CMPM (R69): FLAG <- the comparison of AC[7:0] with `CacheRead(ea)`. -/
def execCmpm (n : Operand) (s : State) : Host.Outcome State Fault Refusal :=
  withMemoryByte n s fun m s' => (s'.setFlag (compareBytes s.acLow m)).advance

/-- CJMP (R70): to LA + operand if FLAG = GT, else to the next instruction. -/
def execCjmp (n : Operand) (s : State) : Host.Outcome State Fault Refusal :=
  .next (if s.flag = .gt then s.setPc (s.relative n) else s.advance)

/-- JMP (R71): to LA + operand. -/
def execJmp (n : Operand) (s : State) : Host.Outcome State Fault Refusal :=
  .next (s.setPc (s.relative n))

end Sys2Proof.Machine
end

