-- ==== Sys2Proof/Machine/LoadStore.lean ====
section
/-! DEFINITION. LOAD, LOADM and STORE (spec/41_load_store.md). -/
namespace Sys2Proof.Machine

/-- LOAD (R66): `AC <- zext_16(operand)`. -/
def execLoad (n : Operand) (s : State) : Host.Outcome State Fault Refusal :=
  .next (s.setAc (immediate n)).advance

/-- LOADM (R67): `AC <- zext_16(CacheRead(ea))`. -/
def execLoadm (n : Operand) (s : State) : Host.Outcome State Fault Refusal :=
  withMemoryByte n s fun b s' => (s'.setAc (zext16 b)).advance

/-- STORE (R68): `CacheWrite(ea, AC[7:0])`. -/
def execStore (n : Operand) (s : State) : Host.Outcome State Fault Refusal :=
  match cacheWrite (s.relative n) s.acLow s with
  | .ok s' => .next s'.advance
  | .error f => .fault f

end Sys2Proof.Machine
end

