-- ==== Sys2Proof/Machine/System.lean ====
section
/-! DEFINITION. START, DISP, HALT and the illegal opcode 15 (spec/44_system.md). All four ignore their operand bits and
advance PC (R61, D22). -/
namespace Sys2Proof.Machine

/-- START (R79): no operation. -/
def execStart (_x : Operand) (s : State) : Host.Outcome State Fault Refusal :=
  .next s.advance

/-- DISP (R80): `emit Display(AC)`. -/
def execDisp (_x : Operand) (s : State) : Host.Outcome State Fault Refusal :=
  .next (s.emit (.display s.ac)).advance

/-- HALT (R81): the engine stops, with no Report. -/
def execHalt (_x : Operand) (s : State) : Host.Outcome State Fault Refusal :=
  .next (s.stop .halt).advance

/-- Opcode 15 (R82): the fatal condition UnknownOpcode. -/
def execIllegal15 (_x : Operand) (s : State) : Host.Outcome State Fault Refusal :=
  .next (s.raiseFatal .unknownOpcode).advance

end Sys2Proof.Machine
end

