-- ==== Sys2Proof/Machine/Dispatch.lean ====
section
/-! DEFINITION. The dispatch on opcode (spec/40_execution_cycle.md R62): one arm per instruction. -/
namespace Sys2Proof.Machine

/-- The `case` arm of an instruction with its step's PC update (R61, R62). -/
def exec (i : Instr) (s : State) : Host.Outcome State Fault Refusal :=
  match i with
  | .start x => Sys2Proof.Machine.execStart x s
  | .load n => Sys2Proof.Machine.execLoad n s
  | .loadm n => Sys2Proof.Machine.execLoadm n s
  | .store n => Sys2Proof.Machine.execStore n s
  | .cmpm n => Sys2Proof.Machine.execCmpm n s
  | .cjmp n => Sys2Proof.Machine.execCjmp n s
  | .jmp n => Sys2Proof.Machine.execJmp n s
  | .add n => Sys2Proof.Machine.execAdd n s
  | .addm n => Sys2Proof.Machine.execAddm n s
  | .sub n => Sys2Proof.Machine.execSub n s
  | .subm n => Sys2Proof.Machine.execSubm n s
  | .mul n => Sys2Proof.Machine.execMul n s
  | .mulm n => Sys2Proof.Machine.execMulm n s
  | .disp x => Sys2Proof.Machine.execDisp x s
  | .halt x => Sys2Proof.Machine.execHalt x s
  | .illegal15 x => Sys2Proof.Machine.execIllegal15 x s

end Sys2Proof.Machine
end

