-- ==== Sys2Proof/Machine/Step.lean ====
section
/-! DEFINITION. One step of the engine (spec/40_execution_cycle.md R57 to R62). -/
namespace Sys2Proof.Machine

/-- `Step()` (R62). A halted engine "stays Halted until reset, and nothing in the block changes" (R57): there the step
answers the same state. -/
def step (s : State) : Host.Outcome State Fault Refusal :=
  if s.halted then .next s
  else
    match fetch s with
    | some w => exec (decode w) s
    | none => .next (s.raiseFatal .pcOutOfBounds)

/-- `s` running, with the instruction word of `nbits` and `w` where the next step fetches: in the table entry PC
selects, or, where PC is outside the table, as a program of that one word launched at LA. -/
def State.withFetchWord (s : State) (nbits w : Nat) : State :=
  if s.pcInRange then
    { s with
      halted := false
      haltReason := .none
      imem := s.imem.set (s.pc.toNat - s.la.toNat) (tableWord nbits w) }
  else
    { s with
      halted := false
      haltReason := .none
      pc := s.la.setWidth 17
      imem := [tableWord nbits w] }

end Sys2Proof.Machine
end

