-- ==== Sys2Proof/Machine/Text.lean ====
section
/-! DEFINITION. Numerals in lines of characters, for the host's files and the assembler. -/
namespace Sys2Proof.Machine

/-- The value of a hexadecimal digit of either case. -/
def hexDigit (c : Char) : Option Nat :=
  let k := c.toNat
  if 48 ≤ k ∧ k ≤ 57 then some (k - 48)
  else if 65 ≤ k ∧ k ≤ 70 then some (k - 55)
  else if 97 ≤ k ∧ k ≤ 102 then some (k - 87)
  else none

/-- The value of a digit of base `base`, at most 16. -/
def digitOf (base : Nat) (c : Char) : Option Nat :=
  match hexDigit c with
  | some d => if d < base then some d else none
  | none => none

/-- Reads digits after those worth `acc`, most significant first. -/
def readDigits (base : Nat) : Nat → List Char → Option Nat
  | acc, [] => some acc
  | acc, c :: cs =>
    match digitOf base c with
    | some d => readDigits base (acc * base + d) cs
    | none => none

/-- A numeral of at least one digit. -/
def readNumeral (base : Nat) : List Char → Option Nat
  | [] => none
  | c :: cs => readDigits base 0 (c :: cs)

/-- The pieces of a line between its spaces. -/
def splitSpaces (cs : List Char) : List (List Char) :=
  let flush (r : List Char × List (List Char)) : List (List Char) := if r.1 = [] then r.2 else r.1 :: r.2
  flush (cs.foldr (fun c r => if c = ' ' then ([], flush r) else (c :: r.1, r.2)) ([], []))

end Sys2Proof.Machine
end

