-- ==== Sys2Proof/WellFormed.lean ====
section
/-! DEFINITION. What must be well formed before a run: the canonical form of data memory and the ranges of the launch
parameters. An instruction needs no check of its own: its operand has the 12 bits of its field, and "every word
with opcode 0 to 14 is a defined instruction whatever its operand bits" (spec/30_encoding.md R54), the words of
opcode 15 being the constructor `illegal15`. -/
namespace Sys2Proof

/-- The canonical form from address `lo` on: addresses rise strictly and lie below 65536, and no entry holds what an
unlisted address reads as. -/
def Memory.wfFrom : Nat → Memory → Bool
  | _, [] => true
  | lo, (a, v) :: m => decide (lo ≤ a) && decide (a < memSize) && decide (v ≠ Memory.unlisted) && Memory.wfFrom (a + 1) m

/-- The canonical form of data memory: equal memories are equal lists. -/
def Memory.wf (m : Memory) : Bool := Memory.wfFrom 0 m

/-- The instruction table lies in the 64 KB space: N ≤ 65536 − LA (R8, R22). -/
def Launch.tableFits (l : Launch) : Bool := decide (l.la.toNat + l.imem.length ≤ memSize)

/-- Launch parameters in the ranges of R8, which "the host must supply" (spec/70_reset_and_hazards.md R103). -/
def Launch.wf (l : Launch) : Bool := l.tableFits && l.memInit.wf

end Sys2Proof
end

