-- ==== Sys2Proof/Machine/Boot.lean ====
section
/-! DEFINITION. The launch interface (spec/70_reset_and_hazards.md R100 to R103, spec/20_memory.md R33,
spec/30_encoding.md R51): how the host's program lines, configuration lines and initial data become the state before
the first step. Files and the command line are outside the spec; a file is the list of its lines here. -/
namespace Sys2Proof.Machine

/-- A launch that fails before the first step. -/
inductive LaunchError where
  /-- ConfigFormatError (R83, R101). -/
  | configFormatError
  /-- N > 65536 − LA (R101, D5). -/
  | programTooLarge
  /-- A loadData byte at or above 65536 (R33, D16). -/
  | dataOutOfRange
  deriving DecidableEq, Repr

/-- A valid program line is exactly 16 characters '0' or '1' (R102); character 1 is bit 15 (R51). -/
def parseProgramLine (cs : List Char) : Option Word :=
  if cs.length = 16 then (readNumeral 2 cs).map (BitVec.ofNat 16) else none

/-- The program line of a word: bit 15 first (R51). -/
def programLineOf (w : Word) : List Char :=
  (List.range 16).map fun k => if w.getLsbD (15 - k) then '1' else '0'

/-- What the host makes of the program lines. -/
structure LoadedProgram where
  /-- The valid lines' words, in order, with no gap (R102). -/
  imem : List Word
  /-- The numbers, from 0, of the lines ProgramLineSkipped reports. -/
  skipped : List Nat
  deriving DecidableEq, Repr

/-- The program from line number `k` on: "any other non-empty line is skipped with a diagnostic" (R102). -/
def loadLines : Nat → List (List Char) → LoadedProgram
  | _, [] => ⟨[], []⟩
  | k, cs :: rest =>
    let p := loadLines (k + 1) rest
    match parseProgramLine cs with
    | some w => { p with imem := w :: p.imem }
    | none => if cs = [] then p else { p with skipped := k :: p.skipped }

/-- Program loading (R102). -/
def loadProgram (lines : List (List Char)) : LoadedProgram := loadLines 0 lines

/-- A configuration line: a prefix of two characters, not looked at, then a hexadecimal number of at most 65535
(R101, D4). -/
def parseConfigLine : List Char → Except LaunchError (BitVec 16)
  | _ :: _ :: cs =>
    match readNumeral 16 cs with
    | some v => if v < 65536 then .ok (BitVec.ofNat 16 v) else .error .configFormatError
    | none => .error .configFormatError
  | _ => .error .configFormatError

/-- The configuration, "exactly two lines": LA, then PC0 (R101, D17). -/
def parseConfig : List (List Char) → Except LaunchError (BitVec 16 × BitVec 16)
  | [l1, l2] => do
    let la ← parseConfigLine l1
    let pc0 ← parseConfigLine l2
    return (la, pc0)
  | _ => .error .configFormatError

/-- `loadData(startAddress, bytes)` (R33): writes Mem directly, before the first step. -/
def loadData : Nat → List Byte → Memory → Except LaunchError Memory
  | _, [], m => .ok m
  | a, b :: bs, m => if a < memSize then loadData (a + 1) bs (m.write a b) else .error .dataOutOfRange

/-- Several loadData calls, in order. -/
def loadAllData : List (Nat × List Byte) → Memory → Except LaunchError Memory
  | [], m => .ok m
  | (a, bs) :: rest, m => do
    let m ← loadData a bs m
    loadAllData rest m

/-- Everything the host supplies before reset (R103). -/
structure HostInput where
  program : List (List Char)
  config : List (List Char)
  data : List (Nat × List Byte) := []
  flagReset : Flag := .eq
  oobPolicy : OobPolicy := .absorb
  deriving DecidableEq, Repr

/-- The boot order of R100 up to the launch parameters: an empty memory, the program, the configuration, the data.
DESIGN CHOICE (safe): the table's size is checked last, so a launch that is refused for its size and for its data
reports the data, an order the spec does not give (notes/assumptions/19.md). -/
def launchOf (h : HostInput) : Except LaunchError Launch := do
  let p := loadProgram h.program
  let (la, pc0) ← parseConfig h.config
  let m ← loadAllData h.data []
  let l : Launch :=
    { la := la, pc0 := pc0, imem := p.imem, memInit := m, flagReset := h.flagReset, oobPolicy := h.oobPolicy }
  if l.tableFits then return l else throw .programTooLarge

/-- The state the step loop starts from (R100, R98), or the error that keeps it from starting. -/
def boot (h : HostInput) : Except LaunchError State := do
  let l ← launchOf h
  return State.ofLaunch l

end Sys2Proof.Machine
end

