-- ==== Sys2Proof/Machine/Outputs.lean ====
section
/-! DEFINITION. What the block gives its surroundings (spec/60_exceptions.md R93, R96): the status port, the hit ratio
and the result of a run. All of it is computed from the state; none of it is state. -/
namespace Sys2Proof.Machine

/-- Cache accesses so far: each is a hit or a miss (spec/20_memory.md R38). -/
def State.accesses (s : State) : Nat := s.hits + s.misses

/-- The exact hit ratio, a rational from 0 to 100 (R38). -/
def State.hitRatio (s : State) : Rat :=
  if s.accesses = 0 then 0 else ((s.hits * 100 : Nat) : Rat) / (s.accesses : Rat)

/-- The hit ratio in hundredths of a percent, rounded half away from zero (spec/70_reset_and_hazards.md R104, D24). -/
def State.hitRatioHundredths (s : State) : Nat :=
  if s.accesses = 0 then 0 else (s.hits * 20000 + s.accesses) / (2 * s.accesses)

/-- The hit ratio as the host prints it: a percentage with two decimal places (R104). -/
def State.hitRatioText (s : State) : List Char :=
  Nat.toDigits 10 (s.hitRatioHundredths / 100) ++
    ['.', Nat.digitChar (s.hitRatioHundredths / 10 % 10), Nat.digitChar (s.hitRatioHundredths % 10)]

/-- The status port (R93, R96). -/
structure Status where
  ac : Word
  halted : Bool
  haltReason : BitVec 2
  hits : Nat
  misses : Nat
  oobCount : Nat
  deriving DecidableEq, Repr

/-- The status outputs of a state (R27, R96). -/
def State.status (s : State) : Status where
  ac := s.ac
  halted := s.halted
  haltReason := haltReasonCode s.haltReason
  hits := s.hits
  misses := s.misses
  oobCount := s.oobCount

/-- The result of a run (spec/40_execution_cycle.md R65). PC is no part of it. -/
structure RunResult where
  ac : Word
  haltReason : HaltReason
  hits : Nat
  misses : Nat
  hitRatio : Rat
  oobCount : Nat
  flag : Flag
  mem : Memory
  lines : Vector CacheLine numLines
  events : List Event
  deriving DecidableEq, Repr

/-- A run has a result exactly when it has ended, which is when `halted` is set (R65). -/
def State.result (s : State) : Option RunResult :=
  if s.halted then
    some { ac := s.ac, haltReason := s.haltReason, hits := s.hits, misses := s.misses, hitRatio := s.hitRatio,
           oobCount := s.oobCount, flag := s.flag, mem := s.mem, lines := s.lines, events := s.events }
  else none

end Sys2Proof.Machine
end

