-- ==== Sys2Proof/Safety.lean ====
section
/-! DEFINITION. What counts as a safe state, and the terms the statements use: the invariant, when an access completes,
what a completed access does, and what an instruction leaves alone. -/
namespace Sys2Proof.Machine

/-! The invariant. -/

/-- Data memory is in canonical form. -/
abbrev State.MemoryCanonical (s : State) : Prop := s.mem.wf = true

/-- N ≤ 65536 − LA (spec/10_state.md R22). -/
abbrev State.ProgramFits (s : State) : Prop := s.la.toNat + s.n ≤ 65536

/-- PC is at most the largest jump target (R16). -/
abbrev State.PcBounded (s : State) : Prop := s.pc.toNat ≤ 69630

/-- `halt_reason` reads NONE exactly while the engine runs (R20). -/
abbrev State.HaltRecorded (s : State) : Prop := s.halted = false ↔ s.haltReason = .none

/-- The address line `i` with tag `tag` holds in `data[k]` (spec/20_memory.md R35). -/
abbrev lineAddress (i : Fin 8) (tag : Tag) (k : Nat) : Nat := tag.toNat * 16 + i.val * 2 + k

/-- The coherence invariant of R40: a valid line holds what Memory holds, wherever Memory has the address. -/
abbrev State.Coherent (s : State) : Prop :=
  ∀ i : Fin 8, s.lines[i].valid = true →
    (lineAddress i s.lines[i].tag 0 < 65536 → s.lines[i].data0 = s.mem.read (lineAddress i s.lines[i].tag 0)) ∧
    (lineAddress i s.lines[i].tag 1 < 65536 → s.lines[i].data1 = s.mem.read (lineAddress i s.lines[i].tag 1))

/-- Every valid line holds the block of an effective address, none of which exceeds 69630 (R35). -/
abbrev State.TagsBounded (s : State) : Prop :=
  ∀ i : Fin 8, s.lines[i].valid = true → s.lines[i].tag.toNat ≤ 4351

/-- A Diag event. -/
def Event.isDiag : Event → Bool
  | .diag _ _ => true
  | .display _ => false
  | .report _ => false

/-- `oob_count` is the number of Diag events (R25, D12). -/
abbrev State.OobRecorded (s : State) : Prop := s.oobCount = s.events.countP Event.isDiag

/-- What every step keeps. -/
abbrev State.Invariant (s : State) : Prop :=
  s.MemoryCanonical ∧ s.ProgramFits ∧ s.PcBounded ∧ s.HaltRecorded ∧ s.Coherent ∧ s.TagsBounded ∧ s.OobRecorded

/-! Accesses. -/

/-- A `CacheRead` of `ea` completes: under ABSORB always, under FATAL where no absent byte is read (R36, R49). -/
abbrev State.ReadCompletes (s : State) (ea : Addr) : Prop :=
  s.oobPolicy = .absorb ∨ ea.toNat < 65536 ∨ s.isHit ea = true

/-- A `CacheWrite` to `ea` completes: under ABSORB always, under FATAL where the byte exists (R37, R49). -/
abbrev State.WriteCompletes (s : State) (ea : Addr) : Prop :=
  s.oobPolicy = .absorb ∨ ea.toNat < 65536

/-- The byte the Memory answers for an address, under ABSORB or where it exists (R31). -/
def State.memoryByte (s : State) (a : Addr) : Byte := if a.toNat < 65536 then s.mem.read a.toNat else 0

/-- The byte a completed `CacheRead` returns (R36, R41): the line's on a hit, else the Memory's. -/
def State.readByte (s : State) (ea : Addr) : Byte :=
  if s.isHit ea then (s.lineOf ea).byte (addrOffset ea) else s.memoryByte ea

/-- The line a fill of the block of `ea` installs (R36). -/
def State.filledLine (s : State) (ea : Addr) : CacheLine :=
  { valid := true, tag := addrTag ea, data0 := s.memoryByte (blockStart ea), data1 := s.memoryByte (blockStart ea + 1) }

/-- The Diag events of a fill, offset 0 first (R36, R41): none where the block exists. -/
def fillEvents (ea : Addr) : List Event :=
  if ea.toNat < 65536 then [] else [.diag (blockStart ea) .read, .diag (blockStart ea + 1) .read]

/-- Every byte of data memory is the same in `t` as in `s`. -/
def SameMemory (s t : State) : Prop := ∀ a, t.mem.read a = s.mem.read a

/-- LA, IMEM and the launch switch are the same in `t` as in `s`. -/
def SameConfiguration (s t : State) : Prop := t.la = s.la ∧ t.imem = s.imem ∧ t.oobPolicy = s.oobPolicy

/-- The run state and the halt reason are the same in `t` as in `s`. -/
def SameRunState (s t : State) : Prop := t.halted = s.halted ∧ t.haltReason = s.haltReason

/-- The cache lines and the three counters are the same in `t` as in `s`. -/
def SameCache (s t : State) : Prop :=
  t.lines = s.lines ∧ t.hits = s.hits ∧ t.misses = s.misses ∧ t.oobCount = s.oobCount

/-- All a completed `CacheRead` of `ea` does to the cache, the counters, the events and data memory (R36, R41). -/
def ReadEffect (s : State) (ea : Addr) (t : State) : Prop :=
  SameMemory s t ∧
  if s.isHit ea then
    t.hits = s.hits + 1 ∧ t.misses = s.misses ∧ t.lines = s.lines ∧ t.oobCount = s.oobCount ∧ t.events = s.events
  else
    t.hits = s.hits ∧ t.misses = s.misses + 1 ∧ t.lines = s.lines.set (addrIndex ea) (s.filledLine ea) ∧
    t.oobCount = s.oobCount + (fillEvents ea).length ∧ t.events = s.events ++ fillEvents ea

/-- All a completed `CacheWrite` of `b` to `ea` does to the cache, the counters, the events and data memory (R37, R41). -/
def WriteEffect (s : State) (ea : Addr) (b : Byte) (t : State) : Prop :=
  (∀ a, t.mem.read a = if a = ea.toNat ∧ ea.toNat < 65536 then b else s.mem.read a) ∧
  (let writeEvents := if ea.toNat < 65536 then [] else [Event.diag ea .write]
   if s.isHit ea then
    t.hits = s.hits + 1 ∧ t.misses = s.misses ∧
    t.lines = s.lines.set (addrIndex ea) ((s.lineOf ea).setByte (addrOffset ea) b) ∧
    t.oobCount = s.oobCount + writeEvents.length ∧ t.events = s.events ++ writeEvents
   else
    t.hits = s.hits ∧ t.misses = s.misses + 1 ∧
    t.lines = s.lines.set (addrIndex ea) ((s.filledLine ea).setByte (addrOffset ea) b) ∧
    t.oobCount = s.oobCount + (writeEvents ++ fillEvents ea).length ∧
    t.events = s.events ++ (writeEvents ++ fillEvents ea))

/-- `t` differs from `s` at most in AC and PC. -/
def OnlyAcPc (s t : State) : Prop :=
  t.flag = s.flag ∧ t.events = s.events ∧ SameConfiguration s t ∧ SameRunState s t ∧ SameCache s t ∧ SameMemory s t

/-- `t` is `s` as far as a program without the counters can tell (spec/10_state.md R28): all but the cache lines, the
hits and the misses is equal. -/
def SameButCache (s t : State) : Prop :=
  t.ac = s.ac ∧ t.pc = s.pc ∧ t.flag = s.flag ∧ SameRunState s t ∧ SameConfiguration s t ∧
  t.oobCount = s.oobCount ∧ t.mem = s.mem ∧ t.events = s.events

/-! Sequences of immediate instructions (spec/43_arithmetic.md R72). -/

/-- The instructions executed one after another. -/
def execAll : List Instr → State → Host.Outcome State Fault Refusal
  | [], s => .next s
  | i :: is, s =>
    match exec i s with
    | .next t => execAll is t
    | .fault f => .fault f
    | .refused r => .refused r

/-- What an ADD, SUB, MUL or LOAD makes of the exact integer `v`, with no reduction; `none` for any other. -/
def exactResult : Instr → Int → Option Int
  | .load n, _ => some n.toNat
  | .add n, v => some (v + n.toNat)
  | .sub n, v => some (v - n.toNat)
  | .mul n, v => some (v * n.toNat)
  | .start _, _ => none
  | .loadm _, _ => none
  | .store _, _ => none
  | .cmpm _, _ => none
  | .cjmp _, _ => none
  | .jmp _, _ => none
  | .addm _, _ => none
  | .subm _, _ => none
  | .mulm _, _ => none
  | .disp _, _ => none
  | .halt _, _ => none
  | .illegal15 _, _ => none

/-- The exact integer a sequence of ADD, SUB, MUL and LOAD makes of `v`. -/
def exactResults : List Instr → Int → Option Int
  | [], v => some v
  | i :: is, v =>
    match exactResult i v with
    | some v' => exactResults is v'
    | none => none

end Sys2Proof.Machine
end

