-- ==== Sys2Proof/Certificates/Slice0/Obligations.lean ====
section
/-! DEFINITION. The statements for the provers. `OBLIGATIONS.json` lists them; what each says of an access, of the
state it leaves alone and of the invariant is in `Safety.lean`. Where a statement speaks of the step of a halted
state, that step, from the state to itself, is the model's choice of notes/assumptions/2.md. -/

open Sys2Proof Sys2Proof.Machine

/-! Encoding. -/

/-- Decoding an encoded instruction gives it back (R50, R53). -/
def Obligations.DecodeOfEncodeIsTheInstruction : Prop := ∀ i : Instr, decode (encode i) = i

/-- Encoding a decoded word gives it back: decoding drops no bit (R50, R53). -/
def Obligations.EncodeOfDecodeIsTheWord : Prop := ∀ w : Word, encode (decode w) = w

/-- The opcode is the word's high four bits and the operand its low twelve (R50, R60; the bit positions are D1). -/
def Obligations.DecodeSplitsWordAt4096 : Prop :=
  ∀ w : Word, (decode w).opcode.toNat = w.toNat / 4096 ∧ (decode w).operand.toNat = w.toNat % 4096

/-- Words written out from the patterns of R53. -/
def Obligations.SpecWordsDecodeToTheirInstructions : Prop :=
  decode 0b0000000000000000 = .start 0 ∧ decode 0b0001000000000101 = .load 5 ∧
  decode 0b0010111111111111 = .loadm 4095 ∧ decode 0b0011000000000001 = .store 1 ∧
  decode 0b0100000001100101 = .cmpm 101 ∧ decode 0b0101000001100100 = .cjmp 100 ∧
  decode 0b0110000000000011 = .jmp 3 ∧ decode 0b0111000000000011 = .add 3 ∧
  decode 0b1000000000000010 = .addm 2 ∧ decode 0b1001111111111111 = .sub 4095 ∧
  decode 0b1010000000000000 = .subm 0 ∧ decode 0b1011000100000001 = .mul 257 ∧
  decode 0b1100000000000001 = .mulm 1 ∧ decode 0b1101011101110111 = .disp 0x777 ∧
  decode 0b1110111111111111 = .halt 0xFFF ∧ decode 0b1111000100100011 = .illegal15 0x123

/-- The illegal words are exactly 0xF000 to 0xFFFF (R54). -/
def Obligations.IllegalWordsAreExactlyFromF000 : Prop :=
  ∀ w : Word, (∃ x, decode w = .illegal15 x) ↔ 0xF000 ≤ w.toNat

/-- The operand bits of START, DISP, HALT and opcode 15 have no effect (R52, D25). -/
def Obligations.IgnoredOperandBitsHaveNoEffect : Prop :=
  ∀ (x y : Operand) (s : State),
    exec (.start x) s = exec (.start y) s ∧ exec (.disp x) s = exec (.disp y) s ∧
    exec (.halt x) s = exec (.halt y) s ∧ exec (.illegal15 x) s = exec (.illegal15 y) s

/-- LA + operand is an exact sum, from 0 to 69630 (R52; no wrap-around is D3 and D6). -/
def Obligations.RelativeAddressIsExactSum : Prop :=
  ∀ (s : State) (n : Operand),
    (s.relative n).toNat = s.la.toNat + n.toNat ∧ (s.relative n).toNat ≤ 69630

/-! Instructions that touch only AC and PC. -/

/-- START changes only PC, to PC + 1 (R79). -/
def Obligations.StartOnlyAdvancesPc : Prop :=
  ∀ (s : State) (x : Operand), ∃ t, exec (.start x) s = .next t ∧ t.ac = s.ac ∧ t.pc = s.pc + 1 ∧ OnlyAcPc s t

/-- LOAD puts its operand, 0 to 4095, in AC (R66). -/
def Obligations.LoadSetsAcToOperand : Prop :=
  ∀ (s : State) (n : Operand),
    ∃ t, exec (.load n) s = .next t ∧ t.ac.toNat = n.toNat ∧ t.pc = s.pc + 1 ∧ OnlyAcPc s t

/-- ADD adds its operand to AC modulo 65536 (R73). -/
def Obligations.AddAddsOperandMod65536 : Prop :=
  ∀ (s : State) (n : Operand),
    ∃ t, exec (.add n) s = .next t ∧ t.ac.toNat = (s.ac.toNat + n.toNat) % 65536 ∧ t.pc = s.pc + 1 ∧ OnlyAcPc s t

/-- SUB subtracts its operand from AC, to the non-negative residue modulo 65536 (R75). -/
def Obligations.SubSubtractsOperandMod65536 : Prop :=
  ∀ (s : State) (n : Operand),
    ∃ t, exec (.sub n) s = .next t ∧ (t.ac.toNat : Int) = ((s.ac.toNat : Int) - n.toNat) % 65536 ∧
      t.pc = s.pc + 1 ∧ OnlyAcPc s t

/-- MUL multiplies AC by its operand modulo 65536 (R77). -/
def Obligations.MulMultipliesByOperandMod65536 : Prop :=
  ∀ (s : State) (n : Operand),
    ∃ t, exec (.mul n) s = .next t ∧ t.ac.toNat = (s.ac.toNat * n.toNat) % 65536 ∧ t.pc = s.pc + 1 ∧ OnlyAcPc s t

/-- JMP goes to LA + operand, and a target outside the program halts the next step with PCOutOfBounds (R71). -/
def Obligations.JmpGoesToLaPlusOperand : Prop :=
  ∀ (s : State) (n : Operand),
    ∃ t, exec (.jmp n) s = .next t ∧ t.pc.toNat = s.la.toNat + n.toNat ∧ t.ac = s.ac ∧ OnlyAcPc s t ∧
      (s.halted = false → s.imem.length ≤ n.toNat →
        ∃ u, step t = .next u ∧ u.halted = true ∧ u.haltReason = .pcOutOfBounds)

/-- CJMP goes to LA + operand on GT and to the next instruction on EQ and LT, and leaves FLAG as it is; a taken jump out
of the program halts the next step with PCOutOfBounds (R70). -/
def Obligations.CjmpIsTakenExactlyOnGreater : Prop :=
  ∀ (s : State) (n : Operand),
    ∃ t, exec (.cjmp n) s = .next t ∧ t.ac = s.ac ∧ OnlyAcPc s t ∧
      (s.flag ≠ .gt → t.pc = s.pc + 1) ∧
      (s.flag = .gt → t.pc.toNat = s.la.toNat + n.toNat) ∧
      (s.flag = .gt → s.halted = false → s.imem.length ≤ n.toNat →
        ∃ u, step t = .next u ∧ u.halted = true ∧ u.haltReason = .pcOutOfBounds)

/-! Instructions that read one byte through the cache. `ReadEffect` is R36 and R41, with the Diag events of a fill in the
order of D27, the spec's own decision (notes/assumptions/17.md); completion under FATAL is R49 and D11. -/

/-- LOADM puts the byte of LA + operand, zero-extended, in AC (R67; the access is R36 and R41, the order of
its Diag events D27, its completion under FATAL R49). -/
def Obligations.LoadmLoadsTheByteZeroExtended : Prop :=
  ∀ (s : State) (n : Operand), s.ReadCompletes (s.relative n) →
    ∃ t, exec (.loadm n) s = .next t ∧ t.ac.toNat = (s.readByte (s.relative n)).toNat ∧ t.pc = s.pc + 1 ∧
      t.flag = s.flag ∧ ReadEffect s (s.relative n) t ∧ SameConfiguration s t ∧ SameRunState s t

/-- ADDM adds the byte of LA + operand to AC modulo 65536 (R74; the access is R36 and R41, the order of its Diag events
D27, its completion under FATAL R49). -/
def Obligations.AddmAddsTheByteMod65536 : Prop :=
  ∀ (s : State) (n : Operand), s.ReadCompletes (s.relative n) →
    ∃ t, exec (.addm n) s = .next t ∧
      t.ac.toNat = (s.ac.toNat + (s.readByte (s.relative n)).toNat) % 65536 ∧ t.pc = s.pc + 1 ∧
      t.flag = s.flag ∧ ReadEffect s (s.relative n) t ∧ SameConfiguration s t ∧ SameRunState s t

/-- SUBM subtracts the byte of LA + operand from AC, to the non-negative residue modulo 65536 (R76; the access is R36 and R41,
the order of its Diag events D27, its completion under FATAL R49). -/
def Obligations.SubmSubtractsTheByteMod65536 : Prop :=
  ∀ (s : State) (n : Operand), s.ReadCompletes (s.relative n) →
    ∃ t, exec (.subm n) s = .next t ∧
      (t.ac.toNat : Int) = ((s.ac.toNat : Int) - (s.readByte (s.relative n)).toNat) % 65536 ∧ t.pc = s.pc + 1 ∧
      t.flag = s.flag ∧ ReadEffect s (s.relative n) t ∧ SameConfiguration s t ∧ SameRunState s t

/-- MULM multiplies AC by the byte of LA + operand modulo 65536 (R78; the access is R36 and R41, the order of its
Diag events D27, its completion under FATAL R49). -/
def Obligations.MulmMultipliesByTheByteMod65536 : Prop :=
  ∀ (s : State) (n : Operand), s.ReadCompletes (s.relative n) →
    ∃ t, exec (.mulm n) s = .next t ∧
      t.ac.toNat = (s.ac.toNat * (s.readByte (s.relative n)).toNat) % 65536 ∧ t.pc = s.pc + 1 ∧
      t.flag = s.flag ∧ ReadEffect s (s.relative n) t ∧ SameConfiguration s t ∧ SameRunState s t

/-- CMPM sets FLAG to the unsigned comparison of the low byte of AC with the byte of LA + operand, and leaves AC as it
is (R69; the access is R36 and R41, the order of its Diag events D27, its completion under FATAL R49). -/
def Obligations.CmpmComparesLowByteUnsigned : Prop :=
  ∀ (s : State) (n : Operand), s.ReadCompletes (s.relative n) →
    ∃ t, exec (.cmpm n) s = .next t ∧
      (t.flag = .gt ↔ s.ac.toNat % 256 > (s.readByte (s.relative n)).toNat) ∧
      (t.flag = .eq ↔ s.ac.toNat % 256 = (s.readByte (s.relative n)).toNat) ∧
      (t.flag = .lt ↔ s.ac.toNat % 256 < (s.readByte (s.relative n)).toNat) ∧
      t.ac = s.ac ∧ t.pc = s.pc + 1 ∧ ReadEffect s (s.relative n) t ∧ SameConfiguration s t ∧ SameRunState s t

/-- STORE writes the low byte of AC through the cache to LA + operand: to the Memory, where it has that address, and to
the line (R68; the access is R37 and R41, the order of its Diag events D27, its completion under FATAL R49). -/
def Obligations.StoreWritesTheLowByteThroughTheCache : Prop :=
  ∀ (s : State) (n : Operand), s.MemoryCanonical → s.WriteCompletes (s.relative n) →
    ∃ t, exec (.store n) s = .next t ∧
      (∃ b : Byte, b.toNat = s.ac.toNat % 256 ∧ WriteEffect s (s.relative n) b t) ∧
      t.ac = s.ac ∧ t.pc = s.pc + 1 ∧ t.flag = s.flag ∧ SameConfiguration s t ∧ SameRunState s t

/-! The instructions of spec/44_system.md that do more than advance. What DISP displays and what PC holds after a run
ends is no part of a claim (R65, D15, D22). -/

/-- DISP emits one Display event and changes nothing else but PC (R80). -/
def Obligations.DispOnlyEmitsOneDisplayEvent : Prop :=
  ∀ (s : State) (x : Operand),
    ∃ t, exec (.disp x) s = .next t ∧ (∃ v, t.events = s.events ++ [.display v]) ∧ t.pc = s.pc + 1 ∧
      t.ac = s.ac ∧ t.flag = s.flag ∧ SameConfiguration s t ∧ SameRunState s t ∧ SameCache s t ∧ SameMemory s t

/-- HALT stops the engine and keeps everything a run's result holds (R81). -/
def Obligations.HaltStopsAndKeepsTheResult : Prop :=
  ∀ (s : State) (x : Operand),
    ∃ t, exec (.halt x) s = .next t ∧ t.halted = true ∧ t.haltReason = .halt ∧ t.ac = s.ac ∧ t.flag = s.flag ∧
      t.events = s.events ∧ SameConfiguration s t ∧ SameCache s t ∧ SameMemory s t

/-- Opcode 15 halts with UNKNOWN_OPCODE and a Report event, with no change to AC, FLAG, cache, counters or Mem (R84). -/
def Obligations.UnknownOpcodeHaltsAndReports : Prop :=
  ∀ (s : State) (x : Operand),
    ∃ t, exec (.illegal15 x) s = .next t ∧ t.halted = true ∧ t.haltReason = .unknownOpcode ∧
      t.events = s.events ++ [.report .unknownOpcode] ∧ t.ac = s.ac ∧ t.flag = s.flag ∧ SameConfiguration s t ∧
      SameCache s t ∧ SameMemory s t

/-! The FATAL policy. -/

/-- Under FATAL, an instruction that reads an absent byte the cache does not hold stops with MemoryOutOfBounds at the
first byte of the block (R49; the order of the two reads is D27). -/
def Obligations.FatalAbsentReadFaults : Prop :=
  ∀ (s : State) (n : Operand),
    s.oobPolicy = .fatal → 65536 ≤ s.la.toNat + n.toNat → s.isHit (s.relative n) = false →
      ∃ a : Addr, a.toNat = (s.la.toNat + n.toNat) / 2 * 2 ∧
        exec (.loadm n) s = .fault (.memoryOutOfBounds a .read) ∧
        exec (.cmpm n) s = .fault (.memoryOutOfBounds a .read) ∧
        exec (.addm n) s = .fault (.memoryOutOfBounds a .read) ∧
        exec (.subm n) s = .fault (.memoryOutOfBounds a .read) ∧
        exec (.mulm n) s = .fault (.memoryOutOfBounds a .read)

/-- Under FATAL, a STORE to an absent address stops with MemoryOutOfBounds at that address, hit or miss (R49, R37). -/
def Obligations.FatalAbsentStoreFaults : Prop :=
  ∀ (s : State) (n : Operand),
    s.oobPolicy = .fatal → 65536 ≤ s.la.toNat + n.toNat →
      ∃ a : Addr, a.toNat = s.la.toNat + n.toNat ∧ exec (.store n) s = .fault (.memoryOutOfBounds a .write)

/-! The step. -/

/-- A running engine with PC in range executes the word at table index PC − LA (R58, R60, R62). -/
def Obligations.StepExecutesTheFetchedInstruction : Prop :=
  ∀ (s : State) (k : Nat) (w : Word),
    s.halted = false → s.pc.toNat = s.la.toNat + k → s.imem[k]? = some w → step s = exec (decode w) s

/-- A running engine with PC below LA or at or above LA + N halts with PC_OUT_OF_BOUNDS, reports it, and keeps all
else (R59; the Report event is R62's). -/
def Obligations.FetchOutsideTheProgramHalts : Prop :=
  ∀ s : State, s.halted = false → (s.pc.toNat < s.la.toNat ∨ s.la.toNat + s.imem.length ≤ s.pc.toNat) →
    ∃ t, step s = .next t ∧ t.halted = true ∧ t.haltReason = .pcOutOfBounds ∧
      t.events = s.events ++ [.report .pcOutOfBounds] ∧ t.ac = s.ac ∧ t.flag = s.flag ∧ t.pc = s.pc ∧
      SameConfiguration s t ∧ SameCache s t ∧ SameMemory s t

/-- A halted engine stays as it is (R57). That its step is the one to itself, where the spec has no step, is the model's
choice (notes/assumptions/2.md). -/
def Obligations.HaltedEngineStaysAsItIs : Prop := ∀ s : State, s.halted = true → step s = .next s

/-- While the engine goes on, PC becomes LA + operand after JMP and after CJMP on GT, and PC + 1 otherwise, as exact
sums (R61; PC that never wraps is D3). -/
def Obligations.NextPcIsExact : Prop :=
  ∀ (s t : State) (w : Word),
    s.ProgramFits → s.halted = false → fetch s = some w → step s = .next t → t.halted = false →
      t.pc.toNat =
        match decode w with
        | .jmp n => s.la.toNat + n.toNat
        | .cjmp n => if s.flag = .gt then s.la.toNat + n.toNat else s.pc.toNat + 1
        | _ => s.pc.toNat + 1

/-- Under ABSORB every state has a next state (R31, R32, R62). For a halted state, where R57 has no step, that is the
model's choice (notes/assumptions/2.md). -/
def Obligations.EveryStepCompletesUnderAbsorb : Prop :=
  ∀ s : State, s.oobPolicy = .absorb → ∃ t, step s = .next t

/-- A step is never refused, and it faults only under FATAL, with MemoryOutOfBounds of an absent address (R49). -/
def Obligations.OnlyFaultIsFatalMemoryOutOfBounds : Prop :=
  ∀ s : State,
    (∀ r, step s ≠ .refused r) ∧
    (∀ f, step s = .fault f →
      s.oobPolicy = .fatal ∧ ∃ a kind, f = .memoryOutOfBounds a kind ∧ 65536 ≤ a.toNat)

/-- A running engine stops in three ways only, each with its reason: a fetch outside the program, HALT, opcode 15
(R64, R20). -/
def Obligations.RunsEndOnlyInThreeWays : Prop :=
  ∀ s t : State, s.halted = false → step s = .next t → t.halted = true →
    (fetch s = none ∧ t.haltReason = .pcOutOfBounds) ∨
    (∃ w x, fetch s = some w ∧ decode w = .halt x ∧ t.haltReason = .halt) ∨
    (∃ w x, fetch s = some w ∧ decode w = .illegal15 x ∧ t.haltReason = .unknownOpcode)

/-! Rules about all instructions. -/

/-- FLAG is written only by CMPM (R18). -/
def Obligations.FlagIsWrittenOnlyByCmpm : Prop :=
  ∀ (i : Instr) (s t : State), exec i s = .next t → (∀ n, i ≠ .cmpm n) → t.flag = s.flag

/-- AC is written by no opcode but LOAD, LOADM, ADD, ADDM, SUB, SUBM, MUL and MULM (R14). -/
def Obligations.AcIsWrittenOnlyByItsEightOpcodes : Prop :=
  ∀ (i : Instr) (s t : State), exec i s = .next t → i.opcode.toNat ∉ [1, 2, 7, 8, 9, 10, 11, 12] → t.ac = s.ac

/-- No step writes LA, IMEM or the launch switch, so a store never changes what is fetched (R21, R22, R47). -/
def Obligations.ConfigurationNeverChanges : Prop := ∀ s t : State, step s = .next t → SameConfiguration s t

/-- Data memory changes only where a STORE stores: every other byte reads as before (R32, R37, R44). -/
def Obligations.OnlyStoreWritesMemoryAndOnlyItsByte : Prop :=
  ∀ (i : Instr) (s t : State) (a : Nat), exec i s = .next t →
    (∀ n, i = .store n → a ≠ (s.relative n).toNat) → t.mem.read a = s.mem.read a

/-- A memory-referencing instruction records exactly one hit or one miss, any other none (R38, R44). -/
def Obligations.EachAccessIsCountedOnce : Prop :=
  ∀ (i : Instr) (s t : State), exec i s = .next t →
    s.hits ≤ t.hits ∧ s.misses ≤ t.misses ∧
    t.hits + t.misses = s.hits + s.misses + (if i.refersToMemory then 1 else 0)

/-- A valid line stays valid, and an instruction changes at most the line of its own address (R39, R37). -/
def Obligations.LinesStayValidAndOthersUntouched : Prop :=
  ∀ (i : Instr) (s t : State) (j : Fin 8), exec i s = .next t →
    (s.lines[j].valid = true → t.lines[j].valid = true) ∧
    (t.lines[j] ≠ s.lines[j] → i.refersToMemory = true ∧ j = addrIndex (s.relative i.operand))

/-- A step appends at most three events, never a Display unless it is DISP's, and counts exactly its Diag events
(R12, R25, R88). -/
def Obligations.EventsOnlyGrowAndDiagsAreCounted : Prop :=
  ∀ s t : State, step s = .next t →
    ∃ es, t.events = s.events ++ es ∧ es.length ≤ 3 ∧ t.oobCount = s.oobCount + es.countP Event.isDiag ∧
      ∀ v, Event.display v ∈ es → ∃ w x, fetch s = some w ∧ decode w = .disp x

/-! Reset and the invariant. -/

/-- The state after reset, for every launch (R98). -/
def Obligations.ResetStateHoldsTheLaunchValues : Prop :=
  ∀ l : Launch,
    let s := State.ofLaunch l
    s.ac = 0 ∧ s.pc.toNat = l.pc0.toNat ∧ s.flag = l.flagReset ∧ s.halted = false ∧ s.haltReason = .none ∧
    s.la = l.la ∧ s.imem = l.imem ∧
    (∀ i : Fin 8, s.lines[i] = { valid := false, tag := 0, data0 := 0, data1 := 0 }) ∧
    s.hits = 0 ∧ s.misses = 0 ∧ s.oobCount = 0 ∧ s.mem = l.memInit ∧ s.events = [] ∧ s.oobPolicy = l.oobPolicy

/-- The reset state meets the invariant. -/
def Obligations.ResetMeetsTheInvariant : Prop := State.reset.Invariant

/-- Every well-formed launch starts in a state that meets the invariant (R40, R98, R103). -/
def Obligations.EveryLaunchMeetsTheInvariant : Prop :=
  ∀ l : Launch, l.wf = true → (State.ofLaunch l).Invariant

/-- Every boot that succeeds starts in a state that meets the invariant (R100, R101, R103). -/
def Obligations.EveryBootMeetsTheInvariant : Prop :=
  ∀ (h : HostInput) (s : State), boot h = .ok s → s.Invariant

/-- Every step keeps the invariant: canonical memory, the program inside 64 KB, PC at most 69630, the halt reason
recorded exactly when halted, the coherence of the cache, bounded tags, and every Diag event counted
(R16, R20, R22, R25, R40). -/
def Obligations.EveryStepKeepsTheInvariant : Prop :=
  ∀ s t : State, s.Invariant → step s = .next t → t.Invariant

/-! The cache. -/

/-- tag × 16 + index × 2 + offset is the address, and two addresses share tag and index exactly when they lie in one
block of two bytes; below 65536 the tag has 12 bits (R35). -/
def Obligations.AddressDecomposesIntoTagIndexOffset : Prop :=
  (∀ a : Addr, (addrTag a).toNat * 16 + (addrIndex a).val * 2 + (addrOffset a).toNat = a.toNat) ∧
  (∀ a b : Addr, (addrTag a = addrTag b ∧ addrIndex a = addrIndex b) ↔ a.toNat / 2 = b.toNat / 2) ∧
  (∀ a : Addr, a.toNat < 65536 → (addrTag a).toNat < 4096)

/-- In a coherent state, reading a present address answers the Memory's byte, hit or miss (R40). -/
def Obligations.CoherentReadAnswersTheMemoryByte : Prop :=
  ∀ (s : State) (ea : Addr), s.Coherent → ea.toNat < 65536 →
    ∃ t, cacheRead ea s = .ok (s.mem.read ea.toNat, t)

/-- A LOADM right after a STORE to the same operand loads the stored byte with a hit, at absent addresses too (R40, R41). -/
def Obligations.LoadmAfterStoreHitsAndReturnsTheByte : Prop :=
  ∀ (s t : State) (n : Operand), exec (.store n) s = .next t →
    ∃ u, exec (.loadm n) t = .next u ∧ u.ac.toNat = s.ac.toNat % 256 ∧ u.hits = t.hits + 1 ∧ u.misses = t.misses

/-- Two reads of one block from an invalid line are a miss and then a hit (R36, R38: temporal locality). -/
def Obligations.SecondReadOfABlockHits : Prop :=
  ∀ (s t : State) (a b : Addr) (x : Byte),
    (s.lineOf a).valid = false → a.toNat / 2 = b.toNat / 2 → cacheRead a s = .ok (x, t) →
      t.misses = s.misses + 1 ∧ t.hits = s.hits ∧
      ∃ y u, cacheRead b t = .ok (y, u) ∧ u.hits = t.hits + 1 ∧ u.misses = t.misses

/-- The cache is hidden: for a program whose every address is present, two states that meet the invariant and differ at
most in the cache lines and the counters of hits and misses step to two states that do the same (R28). -/
def Obligations.CacheIsHiddenForPresentAddresses : Prop :=
  ∀ s s' t : State, s.Invariant → s'.Invariant → SameButCache s s' → s.la.toNat + 4095 < 65536 →
    step s = .next t → ∃ t', step s' = .next t' ∧ SameButCache t t'

/-- The hit ratio is hits / (hits + misses) × 100, and 0 when there was no access (R38). -/
def Obligations.HitRatioIsHitsOverAccesses : Prop :=
  ∀ s : State,
    (s.hits + s.misses = 0 → s.hitRatio = 0) ∧
    (s.hits + s.misses ≠ 0 → s.hitRatio * (s.hits + s.misses : Nat) = (s.hits * 100 : Nat)) ∧
    0 ≤ s.hitRatio ∧ s.hitRatio ≤ 100

/-! Arithmetic, outputs and launch. -/

/-- "For any sequence of ADD/SUB/MUL/LOAD operations, final AC equals the mathematically correct value reduced mod
65536", and FLAG is as before (R72). -/
def Obligations.ImmediateSequencesComputeMod65536 : Prop :=
  ∀ (is : List Instr) (s : State) (v : Int), exactResults is s.ac.toNat = some v →
    ∃ t, execAll is s = .next t ∧ (t.ac.toNat : Int) = v % 65536 ∧ t.flag = s.flag

/-- FLAG is held in two bits as +1, 0 or −1 and never as 0b10, and the four halt reasons have the codes 0 to 3
(R18, R20; the encodings are D13 and D14). -/
def Obligations.FlagAndHaltReasonEncodings : Prop :=
  (∀ f : Flag, (flagBits f).toInt = flagValue f ∧ flagBits f ≠ 0b10) ∧
  flagValue .gt = 1 ∧ flagValue .eq = 0 ∧ flagValue .lt = -1 ∧
  (haltReasonCode .none).toNat = 0 ∧ (haltReasonCode .halt).toNat = 1 ∧
  (haltReasonCode .pcOutOfBounds).toNat = 2 ∧ (haltReasonCode .unknownOpcode).toNat = 3

/-- A word's 16 characters, bit 15 first, parse to the word (R51, D2). -/
def Obligations.ProgramLineOfWordParsesToIt : Prop := ∀ w : Word, parseProgramLine (programLineOf w) = some w

/-- The valid lines, exactly those of 16 characters '0' and '1', become the table with no gap, and every other non-empty
line is reported skipped (R102). -/
def Obligations.ValidLinesBecomeTheTableWithNoGap : Prop :=
  (∀ cs : List Char, (parseProgramLine cs).isSome = true ↔ cs.length = 16 ∧ ∀ c ∈ cs, c = '0' ∨ c = '1') ∧
  (∀ lines : List (List Char), (loadProgram lines).imem = lines.filterMap parseProgramLine) ∧
  (∀ (lines : List (List Char)) (k : Nat), k ∈ (loadProgram lines).skipped ↔
    ∃ cs, lines[k]? = some cs ∧ cs ≠ [] ∧ parseProgramLine cs = none)
end

