-- ==== Sys2Proof/Laws/Memory.lean ====
section
/-! SUPPORT. Data memory: read after write, and the canonical form every write keeps. -/
namespace Sys2Proof

@[simp] theorem Memory.read_nil (a : Nat) : Memory.read [] a = Memory.unlisted := rfl

/-- A write leaves every other address alone. -/
theorem Memory.read_write_other (m : Memory) {a b : Nat} (v : Byte) (h : b ≠ a) :
    (m.write a v).read b = m.read b := by
  induction m with
  | nil => unfold Memory.write; split <;> simp [Memory.read, h.symm]
  | cons kw m ih =>
    obtain ⟨k, w⟩ := kw
    unfold Memory.write
    split
    · split <;> simp [Memory.read, h.symm]
    · split
      · subst a; split <;> simp [Memory.read, h.symm]
      · simp [Memory.read, ih]

/-- A canonical memory from `lo` on lists nothing below `lo`. -/
theorem Memory.read_below {lo a : Nat} {m : Memory} (hm : Memory.wfFrom lo m = true) (h : a < lo) :
    m.read a = Memory.unlisted := by
  induction m generalizing lo with
  | nil => rfl
  | cons kw m ih =>
    obtain ⟨k, w⟩ := kw
    simp only [Memory.wfFrom, Bool.and_eq_true, decide_eq_true_eq] at hm
    have : k ≠ a := by omega
    simp only [Memory.read, this, if_false]
    exact ih hm.2 (by omega)

/-- A canonical memory reads back what was written. -/
theorem Memory.read_write_same_from {lo : Nat} (m : Memory) (hm : Memory.wfFrom lo m = true) (a : Nat) (v : Byte) :
    (m.write a v).read a = v := by
  induction m generalizing lo with
  | nil => unfold Memory.write; split <;> simp_all [Memory.read]
  | cons kw m ih =>
    obtain ⟨k, w⟩ := kw
    simp only [Memory.wfFrom, Bool.and_eq_true, decide_eq_true_eq] at hm
    unfold Memory.write
    split
    · split
      · have : k ≠ a := by omega
        simp only [Memory.read, this, if_false]
        rw [Memory.read_below hm.2 (by omega)]; exact Eq.symm ‹_›
      · simp [Memory.read]
    · split
      · split
        · rw [Memory.read_below hm.2 (by omega)]; exact Eq.symm ‹_›
        · simp [Memory.read]
      · have : k ≠ a := by omega
        simp only [Memory.read, this, if_false]
        exact ih hm.2

theorem Memory.read_write_same {m : Memory} (hm : m.wf = true) (a : Nat) (v : Byte) : (m.write a v).read a = v :=
  Memory.read_write_same_from m hm a v

/-- A canonical memory from `lo` on is canonical from any lower address on. -/
theorem Memory.wfFrom_mono {lo lo' : Nat} {m : Memory} (h : lo' ≤ lo) (hm : Memory.wfFrom lo m = true) :
    Memory.wfFrom lo' m = true := by
  cases m with
  | nil => rfl
  | cons kw m =>
    obtain ⟨k, w⟩ := kw
    simp only [Memory.wfFrom, Bool.and_eq_true, decide_eq_true_eq] at hm ⊢
    exact ⟨⟨⟨by omega, hm.1.1.2⟩, hm.1.2⟩, hm.2⟩

theorem Memory.wfFrom_write {lo : Nat} {m : Memory} (hm : Memory.wfFrom lo m = true) {a : Nat} (hlo : lo ≤ a)
    (ha : a < 65536) (v : Byte) : Memory.wfFrom lo (m.write a v) = true := by
  induction m generalizing lo with
  | nil => unfold Memory.write; split <;> simp_all [Memory.wfFrom]
  | cons kw m ih =>
    obtain ⟨k, w⟩ := kw
    have hm' := hm
    simp only [Memory.wfFrom, Bool.and_eq_true, decide_eq_true_eq] at hm'
    unfold Memory.write
    split
    · split
      · exact hm
      · simp only [Memory.wfFrom, Bool.and_eq_true, decide_eq_true_eq]
        exact ⟨⟨⟨hlo, ha⟩, ‹_›⟩, ⟨⟨by omega, hm'.1.1.2⟩, hm'.1.2⟩, hm'.2⟩
    · split
      · subst a
        split
        · exact Memory.wfFrom_mono (by omega) hm'.2
        · simp only [Memory.wfFrom, Bool.and_eq_true, decide_eq_true_eq]
          exact ⟨⟨⟨hlo, ha⟩, ‹_›⟩, hm'.2⟩
      · simp only [Memory.wfFrom, Bool.and_eq_true, decide_eq_true_eq]
        exact ⟨hm'.1, ih hm'.2 (by omega)⟩

/-- Every write to an address that exists keeps the canonical form. -/
theorem Memory.wf_write {m : Memory} (hm : m.wf = true) {a : Nat} (ha : a < 65536) (v : Byte) :
    (m.write a v).wf = true :=
  Memory.wfFrom_write hm (by omega) ha v

/-- The memory of an empty MEM_INIT is canonical. -/
@[simp] theorem Memory.wf_nil : Memory.wf [] = true := rfl

end Sys2Proof
end

