-- ==== Sys2Proof/Laws/Boot.lean ====
section
/-! SUPPORT. The setup writes keep data memory in canonical form. -/
namespace Sys2Proof.Machine

theorem loadData_wf {bs : List Byte} {a : Nat} {m m' : Memory} (hm : m.wf = true) (h : loadData a bs m = .ok m') :
    m'.wf = true := by
  induction bs generalizing a m with
  | nil => cases h; exact hm
  | cons b bs ih =>
    simp only [loadData] at h
    split at h
    · exact ih (Memory.wf_write hm (by simpa using ‹a < memSize›) b) h
    · cases h

theorem loadAllData_wf {ds : List (Nat × List Byte)} {m m' : Memory} (hm : m.wf = true)
    (h : loadAllData ds m = .ok m') : m'.wf = true := by
  induction ds generalizing m with
  | nil => cases h; exact hm
  | cons d ds ih =>
    simp only [loadAllData, bind, Except.bind] at h
    split at h
    · cases h
    · exact ih (loadData_wf hm ‹_›) h

end Sys2Proof.Machine
end

