-- ==== Sys2Proof/Laws/State.lean ====
section
/-! SUPPORT. What each register update of Machine/Ops.lean leaves in each field of State. -/
namespace Sys2Proof.Machine

@[simp] theorem State.setAc_ac (s : State) (v : Word) : (s.setAc v).ac = v := rfl
@[simp] theorem State.setAc_pc (s : State) (v : Word) : (s.setAc v).pc = s.pc := rfl
@[simp] theorem State.setAc_flag (s : State) (v : Word) : (s.setAc v).flag = s.flag := rfl
@[simp] theorem State.setAc_halted (s : State) (v : Word) : (s.setAc v).halted = s.halted := rfl
@[simp] theorem State.setAc_haltReason (s : State) (v : Word) : (s.setAc v).haltReason = s.haltReason := rfl
@[simp] theorem State.setAc_la (s : State) (v : Word) : (s.setAc v).la = s.la := rfl
@[simp] theorem State.setAc_imem (s : State) (v : Word) : (s.setAc v).imem = s.imem := rfl
@[simp] theorem State.setAc_lines (s : State) (v : Word) : (s.setAc v).lines = s.lines := rfl
@[simp] theorem State.setAc_hits (s : State) (v : Word) : (s.setAc v).hits = s.hits := rfl
@[simp] theorem State.setAc_misses (s : State) (v : Word) : (s.setAc v).misses = s.misses := rfl
@[simp] theorem State.setAc_oobCount (s : State) (v : Word) : (s.setAc v).oobCount = s.oobCount := rfl
@[simp] theorem State.setAc_mem (s : State) (v : Word) : (s.setAc v).mem = s.mem := rfl
@[simp] theorem State.setAc_events (s : State) (v : Word) : (s.setAc v).events = s.events := rfl
@[simp] theorem State.setAc_oobPolicy (s : State) (v : Word) : (s.setAc v).oobPolicy = s.oobPolicy := rfl

@[simp] theorem State.setPc_ac (s : State) (a : Addr) : (s.setPc a).ac = s.ac := rfl
@[simp] theorem State.setPc_pc (s : State) (a : Addr) : (s.setPc a).pc = a := rfl
@[simp] theorem State.setPc_flag (s : State) (a : Addr) : (s.setPc a).flag = s.flag := rfl
@[simp] theorem State.setPc_halted (s : State) (a : Addr) : (s.setPc a).halted = s.halted := rfl
@[simp] theorem State.setPc_haltReason (s : State) (a : Addr) : (s.setPc a).haltReason = s.haltReason := rfl
@[simp] theorem State.setPc_la (s : State) (a : Addr) : (s.setPc a).la = s.la := rfl
@[simp] theorem State.setPc_imem (s : State) (a : Addr) : (s.setPc a).imem = s.imem := rfl
@[simp] theorem State.setPc_lines (s : State) (a : Addr) : (s.setPc a).lines = s.lines := rfl
@[simp] theorem State.setPc_hits (s : State) (a : Addr) : (s.setPc a).hits = s.hits := rfl
@[simp] theorem State.setPc_misses (s : State) (a : Addr) : (s.setPc a).misses = s.misses := rfl
@[simp] theorem State.setPc_oobCount (s : State) (a : Addr) : (s.setPc a).oobCount = s.oobCount := rfl
@[simp] theorem State.setPc_mem (s : State) (a : Addr) : (s.setPc a).mem = s.mem := rfl
@[simp] theorem State.setPc_events (s : State) (a : Addr) : (s.setPc a).events = s.events := rfl
@[simp] theorem State.setPc_oobPolicy (s : State) (a : Addr) : (s.setPc a).oobPolicy = s.oobPolicy := rfl

@[simp] theorem State.setFlag_ac (s : State) (f : Flag) : (s.setFlag f).ac = s.ac := rfl
@[simp] theorem State.setFlag_pc (s : State) (f : Flag) : (s.setFlag f).pc = s.pc := rfl
@[simp] theorem State.setFlag_flag (s : State) (f : Flag) : (s.setFlag f).flag = f := rfl
@[simp] theorem State.setFlag_halted (s : State) (f : Flag) : (s.setFlag f).halted = s.halted := rfl
@[simp] theorem State.setFlag_haltReason (s : State) (f : Flag) : (s.setFlag f).haltReason = s.haltReason := rfl
@[simp] theorem State.setFlag_la (s : State) (f : Flag) : (s.setFlag f).la = s.la := rfl
@[simp] theorem State.setFlag_imem (s : State) (f : Flag) : (s.setFlag f).imem = s.imem := rfl
@[simp] theorem State.setFlag_lines (s : State) (f : Flag) : (s.setFlag f).lines = s.lines := rfl
@[simp] theorem State.setFlag_hits (s : State) (f : Flag) : (s.setFlag f).hits = s.hits := rfl
@[simp] theorem State.setFlag_misses (s : State) (f : Flag) : (s.setFlag f).misses = s.misses := rfl
@[simp] theorem State.setFlag_oobCount (s : State) (f : Flag) : (s.setFlag f).oobCount = s.oobCount := rfl
@[simp] theorem State.setFlag_mem (s : State) (f : Flag) : (s.setFlag f).mem = s.mem := rfl
@[simp] theorem State.setFlag_events (s : State) (f : Flag) : (s.setFlag f).events = s.events := rfl
@[simp] theorem State.setFlag_oobPolicy (s : State) (f : Flag) : (s.setFlag f).oobPolicy = s.oobPolicy := rfl

@[simp] theorem State.setMem_ac (s : State) (m : Memory) : (s.setMem m).ac = s.ac := rfl
@[simp] theorem State.setMem_pc (s : State) (m : Memory) : (s.setMem m).pc = s.pc := rfl
@[simp] theorem State.setMem_flag (s : State) (m : Memory) : (s.setMem m).flag = s.flag := rfl
@[simp] theorem State.setMem_halted (s : State) (m : Memory) : (s.setMem m).halted = s.halted := rfl
@[simp] theorem State.setMem_haltReason (s : State) (m : Memory) : (s.setMem m).haltReason = s.haltReason := rfl
@[simp] theorem State.setMem_la (s : State) (m : Memory) : (s.setMem m).la = s.la := rfl
@[simp] theorem State.setMem_imem (s : State) (m : Memory) : (s.setMem m).imem = s.imem := rfl
@[simp] theorem State.setMem_lines (s : State) (m : Memory) : (s.setMem m).lines = s.lines := rfl
@[simp] theorem State.setMem_hits (s : State) (m : Memory) : (s.setMem m).hits = s.hits := rfl
@[simp] theorem State.setMem_misses (s : State) (m : Memory) : (s.setMem m).misses = s.misses := rfl
@[simp] theorem State.setMem_oobCount (s : State) (m : Memory) : (s.setMem m).oobCount = s.oobCount := rfl
@[simp] theorem State.setMem_mem (s : State) (m : Memory) : (s.setMem m).mem = m := rfl
@[simp] theorem State.setMem_events (s : State) (m : Memory) : (s.setMem m).events = s.events := rfl
@[simp] theorem State.setMem_oobPolicy (s : State) (m : Memory) : (s.setMem m).oobPolicy = s.oobPolicy := rfl

@[simp] theorem State.setLine_ac (s : State) (i : Fin 8) (l : CacheLine) : (s.setLine i l).ac = s.ac := rfl
@[simp] theorem State.setLine_pc (s : State) (i : Fin 8) (l : CacheLine) : (s.setLine i l).pc = s.pc := rfl
@[simp] theorem State.setLine_flag (s : State) (i : Fin 8) (l : CacheLine) : (s.setLine i l).flag = s.flag := rfl
@[simp] theorem State.setLine_halted (s : State) (i : Fin 8) (l : CacheLine) : (s.setLine i l).halted = s.halted := rfl
@[simp] theorem State.setLine_haltReason (s : State) (i : Fin 8) (l : CacheLine) : (s.setLine i l).haltReason = s.haltReason := rfl
@[simp] theorem State.setLine_la (s : State) (i : Fin 8) (l : CacheLine) : (s.setLine i l).la = s.la := rfl
@[simp] theorem State.setLine_imem (s : State) (i : Fin 8) (l : CacheLine) : (s.setLine i l).imem = s.imem := rfl
@[simp] theorem State.setLine_lines (s : State) (i : Fin 8) (l : CacheLine) : (s.setLine i l).lines = s.lines.set i l := rfl
@[simp] theorem State.setLine_hits (s : State) (i : Fin 8) (l : CacheLine) : (s.setLine i l).hits = s.hits := rfl
@[simp] theorem State.setLine_misses (s : State) (i : Fin 8) (l : CacheLine) : (s.setLine i l).misses = s.misses := rfl
@[simp] theorem State.setLine_oobCount (s : State) (i : Fin 8) (l : CacheLine) : (s.setLine i l).oobCount = s.oobCount := rfl
@[simp] theorem State.setLine_mem (s : State) (i : Fin 8) (l : CacheLine) : (s.setLine i l).mem = s.mem := rfl
@[simp] theorem State.setLine_events (s : State) (i : Fin 8) (l : CacheLine) : (s.setLine i l).events = s.events := rfl
@[simp] theorem State.setLine_oobPolicy (s : State) (i : Fin 8) (l : CacheLine) : (s.setLine i l).oobPolicy = s.oobPolicy := rfl

@[simp] theorem State.countHit_ac (s : State) : (s.countHit).ac = s.ac := rfl
@[simp] theorem State.countHit_pc (s : State) : (s.countHit).pc = s.pc := rfl
@[simp] theorem State.countHit_flag (s : State) : (s.countHit).flag = s.flag := rfl
@[simp] theorem State.countHit_halted (s : State) : (s.countHit).halted = s.halted := rfl
@[simp] theorem State.countHit_haltReason (s : State) : (s.countHit).haltReason = s.haltReason := rfl
@[simp] theorem State.countHit_la (s : State) : (s.countHit).la = s.la := rfl
@[simp] theorem State.countHit_imem (s : State) : (s.countHit).imem = s.imem := rfl
@[simp] theorem State.countHit_lines (s : State) : (s.countHit).lines = s.lines := rfl
@[simp] theorem State.countHit_hits (s : State) : (s.countHit).hits = s.hits + 1 := rfl
@[simp] theorem State.countHit_misses (s : State) : (s.countHit).misses = s.misses := rfl
@[simp] theorem State.countHit_oobCount (s : State) : (s.countHit).oobCount = s.oobCount := rfl
@[simp] theorem State.countHit_mem (s : State) : (s.countHit).mem = s.mem := rfl
@[simp] theorem State.countHit_events (s : State) : (s.countHit).events = s.events := rfl
@[simp] theorem State.countHit_oobPolicy (s : State) : (s.countHit).oobPolicy = s.oobPolicy := rfl

@[simp] theorem State.countMiss_ac (s : State) : (s.countMiss).ac = s.ac := rfl
@[simp] theorem State.countMiss_pc (s : State) : (s.countMiss).pc = s.pc := rfl
@[simp] theorem State.countMiss_flag (s : State) : (s.countMiss).flag = s.flag := rfl
@[simp] theorem State.countMiss_halted (s : State) : (s.countMiss).halted = s.halted := rfl
@[simp] theorem State.countMiss_haltReason (s : State) : (s.countMiss).haltReason = s.haltReason := rfl
@[simp] theorem State.countMiss_la (s : State) : (s.countMiss).la = s.la := rfl
@[simp] theorem State.countMiss_imem (s : State) : (s.countMiss).imem = s.imem := rfl
@[simp] theorem State.countMiss_lines (s : State) : (s.countMiss).lines = s.lines := rfl
@[simp] theorem State.countMiss_hits (s : State) : (s.countMiss).hits = s.hits := rfl
@[simp] theorem State.countMiss_misses (s : State) : (s.countMiss).misses = s.misses + 1 := rfl
@[simp] theorem State.countMiss_oobCount (s : State) : (s.countMiss).oobCount = s.oobCount := rfl
@[simp] theorem State.countMiss_mem (s : State) : (s.countMiss).mem = s.mem := rfl
@[simp] theorem State.countMiss_events (s : State) : (s.countMiss).events = s.events := rfl
@[simp] theorem State.countMiss_oobPolicy (s : State) : (s.countMiss).oobPolicy = s.oobPolicy := rfl

@[simp] theorem State.countOob_ac (s : State) : (s.countOob).ac = s.ac := rfl
@[simp] theorem State.countOob_pc (s : State) : (s.countOob).pc = s.pc := rfl
@[simp] theorem State.countOob_flag (s : State) : (s.countOob).flag = s.flag := rfl
@[simp] theorem State.countOob_halted (s : State) : (s.countOob).halted = s.halted := rfl
@[simp] theorem State.countOob_haltReason (s : State) : (s.countOob).haltReason = s.haltReason := rfl
@[simp] theorem State.countOob_la (s : State) : (s.countOob).la = s.la := rfl
@[simp] theorem State.countOob_imem (s : State) : (s.countOob).imem = s.imem := rfl
@[simp] theorem State.countOob_lines (s : State) : (s.countOob).lines = s.lines := rfl
@[simp] theorem State.countOob_hits (s : State) : (s.countOob).hits = s.hits := rfl
@[simp] theorem State.countOob_misses (s : State) : (s.countOob).misses = s.misses := rfl
@[simp] theorem State.countOob_oobCount (s : State) : (s.countOob).oobCount = s.oobCount + 1 := rfl
@[simp] theorem State.countOob_mem (s : State) : (s.countOob).mem = s.mem := rfl
@[simp] theorem State.countOob_events (s : State) : (s.countOob).events = s.events := rfl
@[simp] theorem State.countOob_oobPolicy (s : State) : (s.countOob).oobPolicy = s.oobPolicy := rfl

@[simp] theorem State.emit_ac (s : State) (e : Event) : (s.emit e).ac = s.ac := rfl
@[simp] theorem State.emit_pc (s : State) (e : Event) : (s.emit e).pc = s.pc := rfl
@[simp] theorem State.emit_flag (s : State) (e : Event) : (s.emit e).flag = s.flag := rfl
@[simp] theorem State.emit_halted (s : State) (e : Event) : (s.emit e).halted = s.halted := rfl
@[simp] theorem State.emit_haltReason (s : State) (e : Event) : (s.emit e).haltReason = s.haltReason := rfl
@[simp] theorem State.emit_la (s : State) (e : Event) : (s.emit e).la = s.la := rfl
@[simp] theorem State.emit_imem (s : State) (e : Event) : (s.emit e).imem = s.imem := rfl
@[simp] theorem State.emit_lines (s : State) (e : Event) : (s.emit e).lines = s.lines := rfl
@[simp] theorem State.emit_hits (s : State) (e : Event) : (s.emit e).hits = s.hits := rfl
@[simp] theorem State.emit_misses (s : State) (e : Event) : (s.emit e).misses = s.misses := rfl
@[simp] theorem State.emit_oobCount (s : State) (e : Event) : (s.emit e).oobCount = s.oobCount := rfl
@[simp] theorem State.emit_mem (s : State) (e : Event) : (s.emit e).mem = s.mem := rfl
@[simp] theorem State.emit_events (s : State) (e : Event) : (s.emit e).events = s.events ++ [e] := rfl
@[simp] theorem State.emit_oobPolicy (s : State) (e : Event) : (s.emit e).oobPolicy = s.oobPolicy := rfl

@[simp] theorem State.stop_ac (s : State) (r : HaltReason) : (s.stop r).ac = s.ac := rfl
@[simp] theorem State.stop_pc (s : State) (r : HaltReason) : (s.stop r).pc = s.pc := rfl
@[simp] theorem State.stop_flag (s : State) (r : HaltReason) : (s.stop r).flag = s.flag := rfl
@[simp] theorem State.stop_halted (s : State) (r : HaltReason) : (s.stop r).halted = true := rfl
@[simp] theorem State.stop_haltReason (s : State) (r : HaltReason) : (s.stop r).haltReason = r := rfl
@[simp] theorem State.stop_la (s : State) (r : HaltReason) : (s.stop r).la = s.la := rfl
@[simp] theorem State.stop_imem (s : State) (r : HaltReason) : (s.stop r).imem = s.imem := rfl
@[simp] theorem State.stop_lines (s : State) (r : HaltReason) : (s.stop r).lines = s.lines := rfl
@[simp] theorem State.stop_hits (s : State) (r : HaltReason) : (s.stop r).hits = s.hits := rfl
@[simp] theorem State.stop_misses (s : State) (r : HaltReason) : (s.stop r).misses = s.misses := rfl
@[simp] theorem State.stop_oobCount (s : State) (r : HaltReason) : (s.stop r).oobCount = s.oobCount := rfl
@[simp] theorem State.stop_mem (s : State) (r : HaltReason) : (s.stop r).mem = s.mem := rfl
@[simp] theorem State.stop_events (s : State) (r : HaltReason) : (s.stop r).events = s.events := rfl
@[simp] theorem State.stop_oobPolicy (s : State) (r : HaltReason) : (s.stop r).oobPolicy = s.oobPolicy := rfl

@[simp] theorem State.advance_ac (s : State) : (s.advance).ac = s.ac := rfl
@[simp] theorem State.advance_pc (s : State) : (s.advance).pc = s.pc + 1 := rfl
@[simp] theorem State.advance_flag (s : State) : (s.advance).flag = s.flag := rfl
@[simp] theorem State.advance_halted (s : State) : (s.advance).halted = s.halted := rfl
@[simp] theorem State.advance_haltReason (s : State) : (s.advance).haltReason = s.haltReason := rfl
@[simp] theorem State.advance_la (s : State) : (s.advance).la = s.la := rfl
@[simp] theorem State.advance_imem (s : State) : (s.advance).imem = s.imem := rfl
@[simp] theorem State.advance_lines (s : State) : (s.advance).lines = s.lines := rfl
@[simp] theorem State.advance_hits (s : State) : (s.advance).hits = s.hits := rfl
@[simp] theorem State.advance_misses (s : State) : (s.advance).misses = s.misses := rfl
@[simp] theorem State.advance_oobCount (s : State) : (s.advance).oobCount = s.oobCount := rfl
@[simp] theorem State.advance_mem (s : State) : (s.advance).mem = s.mem := rfl
@[simp] theorem State.advance_events (s : State) : (s.advance).events = s.events := rfl
@[simp] theorem State.advance_oobPolicy (s : State) : (s.advance).oobPolicy = s.oobPolicy := rfl

@[simp] theorem State.raiseFatal_ac (s : State) (r : HaltReason) : (s.raiseFatal r).ac = s.ac := rfl
@[simp] theorem State.raiseFatal_pc (s : State) (r : HaltReason) : (s.raiseFatal r).pc = s.pc := rfl
@[simp] theorem State.raiseFatal_flag (s : State) (r : HaltReason) : (s.raiseFatal r).flag = s.flag := rfl
@[simp] theorem State.raiseFatal_halted (s : State) (r : HaltReason) : (s.raiseFatal r).halted = true := rfl
@[simp] theorem State.raiseFatal_haltReason (s : State) (r : HaltReason) : (s.raiseFatal r).haltReason = r := rfl
@[simp] theorem State.raiseFatal_la (s : State) (r : HaltReason) : (s.raiseFatal r).la = s.la := rfl
@[simp] theorem State.raiseFatal_imem (s : State) (r : HaltReason) : (s.raiseFatal r).imem = s.imem := rfl
@[simp] theorem State.raiseFatal_lines (s : State) (r : HaltReason) : (s.raiseFatal r).lines = s.lines := rfl
@[simp] theorem State.raiseFatal_hits (s : State) (r : HaltReason) : (s.raiseFatal r).hits = s.hits := rfl
@[simp] theorem State.raiseFatal_misses (s : State) (r : HaltReason) : (s.raiseFatal r).misses = s.misses := rfl
@[simp] theorem State.raiseFatal_oobCount (s : State) (r : HaltReason) : (s.raiseFatal r).oobCount = s.oobCount := rfl
@[simp] theorem State.raiseFatal_mem (s : State) (r : HaltReason) : (s.raiseFatal r).mem = s.mem := rfl
@[simp] theorem State.raiseFatal_events (s : State) (r : HaltReason) : (s.raiseFatal r).events = s.events ++ [.report r] := rfl
@[simp] theorem State.raiseFatal_oobPolicy (s : State) (r : HaltReason) : (s.raiseFatal r).oobPolicy = s.oobPolicy := rfl

end Sys2Proof.Machine
end

