-- ==== Sys2Proof/Laws/Cache.lean ====
section
/-! SUPPORT. What the Memory and the cache controller can do, said once: each operation completes exactly under its
completion condition, with one value and one state, or stops with one fault. -/
namespace Sys2Proof.Machine

/-! Address arithmetic. -/

theorem addrOffset_toNat (a : Addr) : (addrOffset a).toNat = a.toNat % 2 := by
  simp [addrOffset, BitVec.extractLsb'_toNat]

theorem addrIndex_val (a : Addr) : (addrIndex a).val = a.toNat / 2 % 8 := by
  simp [addrIndex, Nat.shiftRight_eq_div_pow]

theorem addrTag_toNat (a : Addr) : (addrTag a).toNat = a.toNat / 16 := by
  have := a.isLt
  simp only [addrTag, BitVec.extractLsb'_toNat, Nat.shiftRight_eq_div_pow]
  omega

theorem blockStart_toNat (a : Addr) : (blockStart a).toNat = a.toNat / 2 * 2 := by
  have h := addrOffset_toNat a
  have := a.isLt
  simp only [blockStart, BitVec.toNat_sub, BitVec.toNat_setWidth, h]
  omega

theorem blockStart_succ_toNat (a : Addr) : (blockStart a + 1).toNat = a.toNat / 2 * 2 + 1 := by
  have h := blockStart_toNat a
  have := a.isLt
  have h1 : (1 : Addr).toNat = 1 := rfl
  rw [BitVec.toNat_add, h, h1]
  omega

theorem addrOffset_eq_zero (a : Addr) : addrOffset a = 0 ↔ a.toNat % 2 = 0 := by
  rw [← addrOffset_toNat, ← BitVec.toNat_inj]; simp

/-- Of the two addresses of a block, the one at offset 0 or 1 is the address itself. -/
theorem blockStart_or_succ (a : Addr) : a = if addrOffset a = 0 then blockStart a else blockStart a + 1 := by
  have h0 := blockStart_toNat a
  have h1 := blockStart_succ_toNat a
  apply BitVec.eq_of_toNat_eq
  split <;> rename_i h <;> rw [addrOffset_eq_zero] at h <;> omega

/-! The Memory. -/

/-- The state after a `MemRead` that completes. -/
def State.afterMemRead (s : State) (a : Addr) : State :=
  if a.toNat < 65536 then s else s.countOob.emit (.diag a .read)

theorem memRead_completes {s : State} {a : Addr} (h : s.oobPolicy = .absorb ∨ a.toNat < 65536) :
    memRead a s = .ok (s.memoryByte a, s.afterMemRead a) := by
  by_cases ha : a.toNat < 65536
  · simp [memRead, State.memoryByte, State.afterMemRead, ha]
  · have h : s.oobPolicy = .absorb := h.resolve_right ha
    simp [memRead, State.memoryByte, State.afterMemRead, ha, reportOutOfBounds, h]

theorem memRead_faults {s : State} {a : Addr} (h : ¬ (s.oobPolicy = .absorb ∨ a.toNat < 65536)) :
    memRead a s = .error (.memoryOutOfBounds a .read) := by
  rw [not_or] at h
  have hp : s.oobPolicy = .fatal := by cases hp : s.oobPolicy <;> simp_all
  have ha := h.2
  simp [memRead, ha, reportOutOfBounds, hp]

/-! The line fill. -/

/-- The state after a line fill that completes. -/
def State.afterFill (s : State) (ea : Addr) : State :=
  { s with
    lines := s.lines.set (addrIndex ea) (s.filledLine ea)
    oobCount := s.oobCount + (fillEvents ea).length
    events := s.events ++ fillEvents ea }

theorem fillLine_completes {s : State} {ea : Addr} (h : s.WriteCompletes ea) :
    fillLine ea s = .ok (s.afterFill ea) := by
  have h0 := blockStart_toNat ea
  have h1 := blockStart_succ_toNat ea
  by_cases ha : ea.toNat < 65536
  · have hb0 : (blockStart ea).toNat < 65536 := by omega
    have hb1 : (blockStart ea + 1).toNat < 65536 := by omega
    simp only [fillLine, memRead_completes (.inr hb0), bind, Except.bind, State.afterMemRead, hb0, if_true,
      memRead_completes (.inr hb1), hb1, pure, Except.pure]
    simp only [State.afterFill, State.filledLine, State.memoryByte, hb0, hb1, if_true, State.setLine, fillEvents, ha,
      List.length_nil, Nat.add_zero, List.append_nil]
  · have hp : s.oobPolicy = .absorb := h.resolve_right ha
    have hb0 : ¬ (blockStart ea).toNat < 65536 := by omega
    have hb1 : ¬ (blockStart ea + 1).toNat < 65536 := by omega
    rw [fillLine, memRead_completes (.inl hp)]
    simp only [bind, Except.bind, State.afterMemRead, hb0, if_false]
    rw [memRead_completes (.inl (by simpa using hp))]
    simp only [State.afterMemRead, hb1, if_false, pure, Except.pure, State.afterFill, State.filledLine,
      State.memoryByte, hb0, State.setLine, fillEvents, ha, State.countOob, State.emit, List.append_assoc,
      List.cons_append, List.nil_append, List.length_cons, List.length_nil]

theorem fillLine_faults {s : State} {ea : Addr} (h : ¬ s.WriteCompletes ea) :
    fillLine ea s = .error (.memoryOutOfBounds (blockStart ea) .read) := by
  have h0 := blockStart_toNat ea
  rw [not_or] at h
  rw [fillLine, memRead_faults (by rw [not_or]; exact ⟨h.1, by omega⟩)]
  rfl

/-- After a fill, the line of the filled address is the installed one. -/
@[simp] theorem State.lineOf_afterFill (s : State) (ea : Addr) : (s.afterFill ea).lineOf ea = s.filledLine ea := by
  simp [State.afterFill, State.lineOf]

/-- The installed line holds the Memory's byte of the address it was installed for. -/
theorem State.filledLine_byte (s : State) (ea : Addr) : (s.filledLine ea).byte (addrOffset ea) = s.memoryByte ea := by
  have h := blockStart_or_succ ea
  by_cases ho : addrOffset ea = 0
  · rw [if_pos ho] at h; simp only [CacheLine.byte, ho, if_true, State.filledLine, ← h]
  · rw [if_neg ho] at h; simp only [CacheLine.byte, ho, if_false, State.filledLine, ← h]

/-! `CacheRead`. -/

/-- The state after a `CacheRead` that completes. -/
def State.afterRead (s : State) (ea : Addr) : State :=
  if s.isHit ea then s.countHit else s.countMiss.afterFill ea

theorem cacheRead_completes {s : State} {ea : Addr} (h : s.ReadCompletes ea) :
    cacheRead ea s = .ok (s.readByte ea, s.afterRead ea) := by
  by_cases hh : s.isHit ea = true
  · simp [cacheRead, hh, State.readByte, State.afterRead]
  · have hw : s.countMiss.WriteCompletes ea := h.imp id fun h => h.resolve_right hh
    have hm : s.countMiss.memoryByte ea = s.memoryByte ea := rfl
    simp only [cacheRead, hh, if_false, fillLine_completes hw, bind, Except.bind, pure, Except.pure,
      State.lineOf_afterFill, State.filledLine_byte, hm, State.readByte, State.afterRead, Bool.false_eq_true]

theorem cacheRead_faults {s : State} {ea : Addr} (h : ¬ s.ReadCompletes ea) :
    cacheRead ea s = .error (.memoryOutOfBounds (blockStart ea) .read) := by
  have hh : ¬ s.isHit ea = true := fun hh => h (.inr (.inr hh))
  have hw : ¬ s.countMiss.WriteCompletes ea := fun hw => h (hw.imp id .inl)
  simp only [cacheRead, hh, if_false, fillLine_faults hw, bind, Except.bind, Bool.false_eq_true]

@[simp] theorem State.afterRead_ac (s : State) (ea : Addr) : (s.afterRead ea).ac = s.ac := by
  unfold State.afterRead; split <;> rfl
@[simp] theorem State.afterRead_pc (s : State) (ea : Addr) : (s.afterRead ea).pc = s.pc := by
  unfold State.afterRead; split <;> rfl
@[simp] theorem State.afterRead_flag (s : State) (ea : Addr) : (s.afterRead ea).flag = s.flag := by
  unfold State.afterRead; split <;> rfl
@[simp] theorem State.afterRead_halted (s : State) (ea : Addr) : (s.afterRead ea).halted = s.halted := by
  unfold State.afterRead; split <;> rfl
@[simp] theorem State.afterRead_haltReason (s : State) (ea : Addr) : (s.afterRead ea).haltReason = s.haltReason := by
  unfold State.afterRead; split <;> rfl
@[simp] theorem State.afterRead_la (s : State) (ea : Addr) : (s.afterRead ea).la = s.la := by
  unfold State.afterRead; split <;> rfl
@[simp] theorem State.afterRead_imem (s : State) (ea : Addr) : (s.afterRead ea).imem = s.imem := by
  unfold State.afterRead; split <;> rfl
@[simp] theorem State.afterRead_mem (s : State) (ea : Addr) : (s.afterRead ea).mem = s.mem := by
  unfold State.afterRead; split <;> rfl
@[simp] theorem State.afterRead_oobPolicy (s : State) (ea : Addr) : (s.afterRead ea).oobPolicy = s.oobPolicy := by
  unfold State.afterRead; split <;> rfl

/-! `CacheWrite`. -/

/-- The state after a `MemWrite` that completes. -/
def State.afterMemWrite (s : State) (ea : Addr) (b : Byte) : State :=
  if ea.toNat < 65536 then s.setMem (s.mem.write ea.toNat b) else s.countOob.emit (.diag ea .write)

@[simp] theorem State.afterMemWrite_isHit (s : State) (ea a : Addr) (b : Byte) :
    (s.afterMemWrite ea b).isHit a = s.isHit a := by
  unfold State.afterMemWrite; split <;> rfl

@[simp] theorem State.afterMemWrite_oobPolicy (s : State) (ea : Addr) (b : Byte) :
    (s.afterMemWrite ea b).oobPolicy = s.oobPolicy := by
  unfold State.afterMemWrite; split <;> rfl

/-- The state after a `CacheWrite` that completes. -/
def State.afterWrite (s : State) (ea : Addr) (b : Byte) : State :=
  if s.isHit ea then (s.afterMemWrite ea b).countHit.setCachedByte ea b
  else ((s.afterMemWrite ea b).countMiss.afterFill ea).setCachedByte ea b

theorem memWrite_completes {s : State} {ea : Addr} (b : Byte) (h : s.WriteCompletes ea) :
    memWrite ea b s = .ok (s.afterMemWrite ea b) := by
  by_cases ha : ea.toNat < 65536
  · simp [memWrite, State.afterMemWrite, ha]
  · simp [memWrite, State.afterMemWrite, ha, reportOutOfBounds, h.resolve_right ha]

theorem cacheWrite_completes {s : State} {ea : Addr} (b : Byte) (h : s.WriteCompletes ea) :
    cacheWrite ea b s = .ok (s.afterWrite ea b) := by
  have hw : (s.afterMemWrite ea b).countMiss.WriteCompletes ea :=
    h.imp (fun h => by rw [State.countMiss_oobPolicy, State.afterMemWrite_oobPolicy, h]) id
  by_cases hh : s.isHit ea = true
  · simp only [cacheWrite, memWrite_completes b h, bind, Except.bind, State.afterMemWrite_isHit, hh, if_true,
      State.afterWrite, pure, Except.pure]
  · simp only [cacheWrite, memWrite_completes b h, bind, Except.bind, State.afterMemWrite_isHit, hh, if_false,
      fillLine_completes hw, State.afterWrite, pure, Except.pure, Bool.false_eq_true]

theorem cacheWrite_faults {s : State} {ea : Addr} (b : Byte) (h : ¬ s.WriteCompletes ea) :
    cacheWrite ea b s = .error (.memoryOutOfBounds ea .write) := by
  rw [not_or] at h
  have hp : s.oobPolicy = .fatal := by cases hp : s.oobPolicy <;> simp_all
  have ha := h.2
  simp [cacheWrite, memWrite, ha, reportOutOfBounds, hp, bind, Except.bind]

@[simp] theorem State.afterWrite_ac (s : State) (ea : Addr) (b : Byte) : (s.afterWrite ea b).ac = s.ac := by
  unfold State.afterWrite State.afterMemWrite; split <;> split <;> rfl
@[simp] theorem State.afterWrite_pc (s : State) (ea : Addr) (b : Byte) : (s.afterWrite ea b).pc = s.pc := by
  unfold State.afterWrite State.afterMemWrite; split <;> split <;> rfl
@[simp] theorem State.afterWrite_flag (s : State) (ea : Addr) (b : Byte) : (s.afterWrite ea b).flag = s.flag := by
  unfold State.afterWrite State.afterMemWrite; split <;> split <;> rfl
@[simp] theorem State.afterWrite_halted (s : State) (ea : Addr) (b : Byte) : (s.afterWrite ea b).halted = s.halted := by
  unfold State.afterWrite State.afterMemWrite; split <;> split <;> rfl
@[simp] theorem State.afterWrite_haltReason (s : State) (ea : Addr) (b : Byte) :
    (s.afterWrite ea b).haltReason = s.haltReason := by
  unfold State.afterWrite State.afterMemWrite; split <;> split <;> rfl
@[simp] theorem State.afterWrite_la (s : State) (ea : Addr) (b : Byte) : (s.afterWrite ea b).la = s.la := by
  unfold State.afterWrite State.afterMemWrite; split <;> split <;> rfl
@[simp] theorem State.afterWrite_imem (s : State) (ea : Addr) (b : Byte) : (s.afterWrite ea b).imem = s.imem := by
  unfold State.afterWrite State.afterMemWrite; split <;> split <;> rfl
@[simp] theorem State.afterWrite_oobPolicy (s : State) (ea : Addr) (b : Byte) :
    (s.afterWrite ea b).oobPolicy = s.oobPolicy := by
  unfold State.afterWrite State.afterMemWrite; split <;> split <;> rfl

/-- The one change a `CacheWrite` makes to data memory. -/
@[simp] theorem State.afterWrite_mem (s : State) (ea : Addr) (b : Byte) :
    (s.afterWrite ea b).mem = if ea.toNat < 65536 then s.mem.write ea.toNat b else s.mem := by
  unfold State.afterWrite State.afterMemWrite; split <;> split <;> rfl

/-- A `CacheRead` leaves data memory as it is. -/
theorem cacheRead_mem {s t : State} {ea : Addr} {b : Byte} (h : cacheRead ea s = .ok (b, t)) : t.mem = s.mem := by
  by_cases hc : s.ReadCompletes ea
  · simp only [cacheRead_completes hc, Except.ok.injEq, Prod.mk.injEq] at h
    simp [← h.2]
  · simp [cacheRead_faults hc] at h

/-- A `CacheWrite` keeps data memory in canonical form. -/
theorem cacheWrite_wf {s t : State} {ea : Addr} {b : Byte} (hm : s.mem.wf = true) (h : cacheWrite ea b s = .ok t) :
    t.mem.wf = true := by
  by_cases hc : s.WriteCompletes ea
  · simp only [cacheWrite_completes b hc, Except.ok.injEq] at h
    rw [← h, State.afterWrite_mem]
    split
    · exact Memory.wf_write hm ‹_› b
    · exact hm
  · simp [cacheWrite_faults b hc] at h

end Sys2Proof.Machine
end

