-- ==== Sys2Proof/Laws/Exec.lean ====
section
/-! SUPPORT. What the instructions that access the cache can answer, and what a step can be. -/
namespace Sys2Proof.Machine

/-- A byte-reading instruction completes exactly when its `CacheRead` does, and runs on with that byte. -/
theorem withMemoryByte_next_iff {n : Operand} {s t : State} {k : Byte → State → State} :
    withMemoryByte n s k = .next t ↔
      s.ReadCompletes (s.relative n) ∧ t = k (s.readByte (s.relative n)) (s.afterRead (s.relative n)) := by
  by_cases h : s.ReadCompletes (s.relative n)
  · simp only [withMemoryByte, cacheRead_completes h, h, true_and, Host.Outcome.next.injEq]
    exact eq_comm
  · simp only [withMemoryByte, cacheRead_faults h, h, false_and, reduceCtorEq]

/-- A byte-reading instruction that does not complete stops with the first read of its fill. -/
theorem withMemoryByte_faults {n : Operand} {s : State} (k : Byte → State → State)
    (h : ¬ s.ReadCompletes (s.relative n)) :
    withMemoryByte n s k = .fault (.memoryOutOfBounds (blockStart (s.relative n)) .read) := by
  simp only [withMemoryByte, cacheRead_faults h]

/-- STORE completes exactly when its `CacheWrite` does. -/
theorem execStore_next_iff {n : Operand} {s t : State} :
    execStore n s = .next t ↔
      s.WriteCompletes (s.relative n) ∧ t = (s.afterWrite (s.relative n) s.acLow).advance := by
  by_cases h : s.WriteCompletes (s.relative n)
  · simp only [execStore, cacheWrite_completes _ h, h, true_and, Host.Outcome.next.injEq]
    exact eq_comm
  · simp only [execStore, cacheWrite_faults _ h, h, false_and, reduceCtorEq]

/-- A STORE that does not complete stops with its Memory write. -/
theorem execStore_stops {n : Operand} {s : State} (h : ¬ s.WriteCompletes (s.relative n)) :
    execStore n s = .fault (.memoryOutOfBounds (s.relative n) .write) := by
  simp only [execStore, cacheWrite_faults _ h]

/-- What `exec i s` answering `.next t` says, for each instruction. -/
def ExecResult (i : Instr) (s t : State) : Prop :=
  match i with
  | .start _ => t = s.advance
  | .load n => t = (s.setAc (immediate n)).advance
  | .loadm n => s.ReadCompletes (s.relative n) ∧
      t = ((s.afterRead (s.relative n)).setAc (zext16 (s.readByte (s.relative n)))).advance
  | .store n => s.WriteCompletes (s.relative n) ∧ t = (s.afterWrite (s.relative n) s.acLow).advance
  | .cmpm n => s.ReadCompletes (s.relative n) ∧
      t = ((s.afterRead (s.relative n)).setFlag (compareBytes s.acLow (s.readByte (s.relative n)))).advance
  | .cjmp n => t = if s.flag = .gt then s.setPc (s.relative n) else s.advance
  | .jmp n => t = s.setPc (s.relative n)
  | .add n => t = (s.setAc (s.ac + immediate n)).advance
  | .addm n => s.ReadCompletes (s.relative n) ∧
      t = ((s.afterRead (s.relative n)).setAc (s.ac + zext16 (s.readByte (s.relative n)))).advance
  | .sub n => t = (s.setAc (s.ac - immediate n)).advance
  | .subm n => s.ReadCompletes (s.relative n) ∧
      t = ((s.afterRead (s.relative n)).setAc (s.ac - zext16 (s.readByte (s.relative n)))).advance
  | .mul n => t = (s.setAc (s.ac * immediate n)).advance
  | .mulm n => s.ReadCompletes (s.relative n) ∧
      t = ((s.afterRead (s.relative n)).setAc (s.ac * zext16 (s.readByte (s.relative n)))).advance
  | .disp _ => t = (s.emit (.display s.ac)).advance
  | .halt _ => t = (s.stop .halt).advance
  | .illegal15 _ => t = (s.raiseFatal .unknownOpcode).advance

/-- The inversion lemma of `exec`, and with it when each instruction completes. -/
theorem exec_next_iff {i : Instr} {s t : State} : exec i s = .next t ↔ ExecResult i s t := by
  cases i with
  | loadm n => exact withMemoryByte_next_iff
  | store n => exact execStore_next_iff
  | cmpm n => exact withMemoryByte_next_iff
  | addm n => exact withMemoryByte_next_iff
  | subm n => exact withMemoryByte_next_iff
  | mulm n => exact withMemoryByte_next_iff
  | _ => exact ⟨fun h => (Host.Outcome.next.inj h).symm, fun h => congrArg _ (Eq.symm h)⟩

/-- PC in range, as the two comparisons of spec/10_state.md R17. -/
theorem State.pcInRange_iff (s : State) :
    s.pcInRange = true ↔ s.la.toNat ≤ s.pc.toNat ∧ s.pc.toNat < s.la.toNat + s.imem.length := by
  rw [State.pcInRange, Bool.and_eq_true, decide_eq_true_eq, decide_eq_true_eq]

/-- A fetch answers a word exactly where PC is at or above LA and the table has the entry. -/
theorem fetch_eq_some_iff {s : State} {w : Word} :
    fetch s = some w ↔ s.la.toNat ≤ s.pc.toNat ∧ s.imem[s.pc.toNat - s.la.toNat]? = some w := by
  unfold fetch
  by_cases h : s.pcInRange = true
  · rw [if_pos h]
    exact ⟨fun hw => ⟨(s.pcInRange_iff.mp h).1, hw⟩, fun hw => hw.2⟩
  · rw [if_neg h]
    rw [State.pcInRange_iff] at h
    refine ⟨fun hw => by simp at hw, fun hw => absurd ⟨hw.1, ?_⟩ h⟩
    have := (List.getElem?_eq_some_iff.mp hw.2).1
    omega

/-- A fetch fails exactly out of range. -/
theorem fetch_eq_none_iff {s : State} : fetch s = none ↔ s.pcInRange = false := by
  unfold fetch
  by_cases h : s.pcInRange = true
  · rw [if_pos h, h, List.getElem?_eq_none_iff]
    have := s.pcInRange_iff.mp h
    simp only [Bool.true_eq_false, iff_false]
    omega
  · rw [if_neg h]
    simpa using h

/-- What a step that answers a next state was: none at all, a failed fetch, or the fetched word's instruction. -/
theorem step_next_cases {s t : State} (h : step s = .next t) :
    (s.halted = true ∧ t = s) ∨
    (s.halted = false ∧ s.pcInRange = false ∧ t = s.raiseFatal .pcOutOfBounds) ∨
    (s.halted = false ∧ ∃ w, fetch s = some w ∧ exec (decode w) s = .next t) := by
  unfold step at h
  split at h
  · exact .inl ⟨‹_›, by simpa using h.symm⟩
  · have hh : s.halted = false := by simpa using ‹¬ s.halted = true›
    split at h
    · exact .inr (.inr ⟨hh, _, ‹_›, h⟩)
    · exact .inr (.inl ⟨hh, fetch_eq_none_iff.mp ‹_›, by simpa using h.symm⟩)

end Sys2Proof.Machine
end

