-- ==== Sys2Proof/Laws/PerInstr.lean ====
section
/-! SUPPORT. The families of statements made for every instruction, one lemma a constructor. -/
namespace Sys2Proof.Laws

/-- word = opcode × 4096 + operand (spec/30_encoding.md R50). -/
def WordValue.Statement (i : Instr) : Prop := (encode i).toNat = i.opcode.toNat * 4096 + i.operand.toNat

theorem WordValue.of_fields (op : Opcode) (n : Operand) : (op ++ n : Word).toNat = op.toNat * 4096 + n.toNat := by
  have h := Nat.shiftLeft_add_eq_or_of_lt n.isLt op.toNat
  rw [BitVec.toNat_append, ← h, Nat.shiftLeft_eq]

theorem WordValue.start (x : Operand) : WordValue.Statement (.start x) := of_fields _ _
theorem WordValue.load (n : Operand) : WordValue.Statement (.load n) := of_fields _ _
theorem WordValue.loadm (n : Operand) : WordValue.Statement (.loadm n) := of_fields _ _
theorem WordValue.store (n : Operand) : WordValue.Statement (.store n) := of_fields _ _
theorem WordValue.cmpm (n : Operand) : WordValue.Statement (.cmpm n) := of_fields _ _
theorem WordValue.cjmp (n : Operand) : WordValue.Statement (.cjmp n) := of_fields _ _
theorem WordValue.jmp (n : Operand) : WordValue.Statement (.jmp n) := of_fields _ _
theorem WordValue.add (n : Operand) : WordValue.Statement (.add n) := of_fields _ _
theorem WordValue.addm (n : Operand) : WordValue.Statement (.addm n) := of_fields _ _
theorem WordValue.sub (n : Operand) : WordValue.Statement (.sub n) := of_fields _ _
theorem WordValue.subm (n : Operand) : WordValue.Statement (.subm n) := of_fields _ _
theorem WordValue.mul (n : Operand) : WordValue.Statement (.mul n) := of_fields _ _
theorem WordValue.mulm (n : Operand) : WordValue.Statement (.mulm n) := of_fields _ _
theorem WordValue.disp (x : Operand) : WordValue.Statement (.disp x) := of_fields _ _
theorem WordValue.halt (x : Operand) : WordValue.Statement (.halt x) := of_fields _ _
theorem WordValue.illegal15 (x : Operand) : WordValue.Statement (.illegal15 x) := of_fields _ _

end Sys2Proof.Laws
end

