-- ==== Sys2Proof/Machine/Assembler.lean ====
section
/-! DEFINITION. The assembly syntax of spec/30_encoding.md R56 (D23). It is text only: the machine never sees it. -/
namespace Sys2Proof.Machine

/-- A number: decimal, or hexadecimal after 0x. -/
def assembleNumber : List Char → Option Nat
  | '0' :: 'x' :: cs => readNumeral 16 cs
  | cs => readNumeral 10 cs

/-- An operand: a number from 0 to 4095. -/
def assembleOperand (cs : List Char) : Option Operand :=
  match assembleNumber cs with
  | some v => if v < 4096 then some (BitVec.ofNat 12 v) else none
  | none => none

/-- The instructions whose operand must be written. -/
def operandMnemonic : List Char → Option (Operand → Instr)
  | ['L', 'O', 'A', 'D'] => some .load
  | ['L', 'O', 'A', 'D', 'M'] => some .loadm
  | ['S', 'T', 'O', 'R', 'E'] => some .store
  | ['C', 'M', 'P', 'M'] => some .cmpm
  | ['C', 'J', 'M', 'P'] => some .cjmp
  | ['J', 'M', 'P'] => some .jmp
  | ['A', 'D', 'D'] => some .add
  | ['A', 'D', 'D', 'M'] => some .addm
  | ['S', 'U', 'B'] => some .sub
  | ['S', 'U', 'B', 'M'] => some .subm
  | ['M', 'U', 'L'] => some .mul
  | ['M', 'U', 'L', 'M'] => some .mulm
  | _ => none

/-- The instructions whose operand "may be omitted and then encodes as 0". -/
def bareMnemonic : List Char → Option (Operand → Instr)
  | ['S', 'T', 'A', 'R', 'T'] => some .start
  | ['D', 'I', 'S', 'P'] => some .disp
  | ['H', 'A', 'L', 'T'] => some .halt
  | _ => none

/-- `.word 0xFnnn`, the only way to write the illegal opcode. -/
def assembleIllegalWord (cs : List Char) : Option Instr :=
  match assembleNumber cs with
  | some v => if 0xF000 ≤ v ∧ v ≤ 0xFFFF then some (.illegal15 (BitVec.ofNat 12 v)) else none
  | none => none

/-- One line of assembly. -/
def assemble (line : List Char) : Option Instr :=
  match splitSpaces line with
  | [m] => (bareMnemonic m).map fun k => k 0
  | [m, o] =>
    if m = ['.', 'w', 'o', 'r', 'd'] then assembleIllegalWord o
    else
      match (operandMnemonic m).orElse fun _ => bareMnemonic m with
      | some k => (assembleOperand o).map k
      | none => none
  | _ => none

end Sys2Proof.Machine
end

