-- ==== Sys2Proof/Tests/Slice0.lean ====
section
/-! SUPPORT. The model's own tests. Expected results come from spec/95_test_vectors.md (the vector's name stands in the
docstring) and from the examples and corner cases of the instruction rules. The second part shows, for every
statement with hypotheses, a state and operands that meet them. -/
namespace Sys2Proof.Tests
open Sys2Proof.Machine

/-- A state right after launch, with LA = PC0. -/
def launched (la : BitVec 16) (imem : List Word) (mem : Memory) : State :=
  State.ofLaunch { la := la, pc0 := la, imem := imem, memInit := mem }

/-- A field of the next state, if there is one. -/
def next {α : Type} (o : Host.Outcome State Fault Refusal) (f : State → α) : Option α :=
  match o with
  | .next t => some (f t)
  | .fault _ => none
  | .refused _ => none

/-- The fault, if there is one. -/
def faultOf (o : Host.Outcome State Fault Refusal) : Option Fault :=
  match o with
  | .next _ => none
  | .fault f => some f
  | .refused _ => none

/-! Decoding: one word a row, from the patterns of R53. -/

theorem test_decode_start : decode 0b0000101010111100 = .start 0xABC := by decide
theorem test_decode_load : decode 0b0001000000000101 = .load 5 := by decide
theorem test_decode_loadm : decode 0b0010000000100001 = .loadm 0x21 := by decide
theorem test_decode_store : decode 0b0011000001100100 = .store 100 := by decide
theorem test_decode_cmpm : decode 0b0100000001100101 = .cmpm 101 := by decide
theorem test_decode_cjmp : decode 0b0101000001100100 = .cjmp 100 := by decide
theorem test_decode_jmp : decode 0b0110000000000011 = .jmp 3 := by decide
theorem test_decode_add : decode 0b0111111111111111 = .add 4095 := by decide
theorem test_decode_addm : decode 0b1000000000000010 = .addm 2 := by decide
theorem test_decode_sub : decode 0b1001000000000011 = .sub 3 := by decide
theorem test_decode_subm : decode 0b1010000000000100 = .subm 4 := by decide
theorem test_decode_mul : decode 0b1011000100000001 = .mul 257 := by decide
theorem test_decode_mulm : decode 0b1100000000000001 = .mulm 1 := by decide
theorem test_decode_disp : decode 0b1101011101110111 = .disp 0x777 := by decide
theorem test_decode_halt : decode 0b1110000000000000 = .halt 0 := by decide
theorem test_decode_illegal15 : decode 0b1111000100100011 = .illegal15 0x123 := by decide

/-- The assembled words of LS1, P1 and Scenario D. -/
theorem test_encode_words :
    encode (.load 0x91A) = 0x191A ∧ encode (.store 100) = 0x3064 ∧ encode (.cjmp 9) = 0x5009 ∧
    encode (.illegal15 0x123) = 0xF123 := by decide

theorem test_table_word : decodeTableWord 16 0xD000 = some (.disp 0) := by decide

/-- The word stored for the host's probe runs as the first instruction after reset. -/
theorem test_with_fetch_word : next (step (State.reset.withFetchWord 16 0x1005)) State.ac = some 5 := by decide

/-! The checks of WellFormed.lean: a term each refuses. -/

theorem test_wf_accepts :
    Launch.wf { la := 65535, pc0 := 0, imem := [0], memInit := [(0, 1), (65535, 255)] } = true := by decide
theorem test_wf_table_too_long : Launch.wf { la := 65535, pc0 := 0, imem := [0, 0] } = false := by decide
theorem test_wf_memory_unsorted : Memory.wf [(2, 1), (1, 1)] = false := by decide
theorem test_wf_memory_repeated : Memory.wf [(2, 1), (2, 3)] = false := by decide
theorem test_wf_memory_lists_zero : Memory.wf [(2, 0)] = false := by decide
theorem test_wf_memory_out_of_range : Memory.wf [(65536, 1)] = false := by decide

/-! One step of each instruction. -/

/-- R79's example, with the nonzero operand bits of SY1. -/
theorem test_start : next (step (launched 0 [0x0ABC] [])) (fun t => (t.ac, t.pc, t.halted)) = some (0, 1, false) := by
  decide

/-- LS5. -/
theorem test_load :
    next (step ((launched 0 [0x1005] []).setAc 0x1234)) (fun t => (t.ac, t.pc)) = some (5, 1) := by decide

/-- LS3: not sign-extended, block 4 to 5 on line 2. -/
theorem test_loadm_zero_extends :
    next (step (launched 0 [0x2005] [(5, 0xFF)])) (fun t => (t.ac, t.misses, t.lines[2])) =
      some (255, 1, ⟨true, 0, 0, 255⟩) := by decide

/-- OB1: an absent address. -/
theorem test_loadm_absent :
    next (step (launched 0xFFF0 [0x2021] [])) (fun t => (t.ac, t.misses, t.oobCount, t.lines[0], t.events)) =
      some (0, 1, 2, ⟨true, 4097, 0, 0⟩, [.diag 65552 .read, .diag 65553 .read]) := by decide

/-- LS1: only the low byte is stored. -/
theorem test_store_low_byte :
    next (step ((launched 0 [0x3000] []).setAc 0x1234)) (fun t => (t.mem, t.ac, t.misses, t.lines[0])) =
      some ([(0, 0x34)], 0x1234, 1, ⟨true, 0, 0x34, 0⟩) := by decide

/-- OB2's STORE. -/
theorem test_store_absent :
    next (step ((launched 0xFFF0 [0x3010] []).setAc 0x77)) (fun t => (t.mem, t.oobCount, t.lines[0], t.events)) =
      some ([], 3, ⟨true, 4096, 0x77, 0⟩, [.diag 65536 .write, .diag 65536 .read, .diag 65537 .read]) := by decide

/-- CJ2: only AC[7:0] is compared. -/
theorem test_cmpm_low_byte :
    next (step ((launched 0 [0x4003] [(3, 5)]).setAc 0x105)) (fun t => (t.flag, t.ac)) = some (.eq, 0x105) := by decide

/-- CJ4: the comparison is unsigned. -/
theorem test_cmpm_unsigned :
    next (step ((launched 0 [0x4003] [(3, 1)]).setAc 0xFF)) (fun t => t.flag) = some .gt := by decide

/-- Scenario C's jump. -/
theorem test_cjmp_taken :
    next (step ((launched 0 [0x5064] []).setFlag .gt)) (fun t => (t.pc, t.flag)) = some (100, .gt) := by decide

/-- CJ10's flag. -/
theorem test_cjmp_not_taken_on_less :
    next (step ((launched 0 [0x5064] []).setFlag .lt)) (fun t => t.pc) = some 1 := by decide

/-- CJ9: the target is LA + operand. -/
theorem test_jmp : next (step (launched 0x10 [0x6003] [])) (fun t => t.pc) = some 0x13 := by decide

/-- R73's corner. -/
theorem test_add_wraps : next (step ((launched 0 [0x7FFF] []).setAc 65000)) (fun t => t.ac) = some 3559 := by decide

/-- AR6. -/
theorem test_addm_wraps :
    next (step ((launched 0 [0x8004] [(4, 255)]).setAc 65535)) (fun t => (t.ac, t.misses)) = some (254, 1) := by decide

/-- AR2. -/
theorem test_sub_wraps : next (step (launched 0 [0x9FFF] [])) (fun t => (t.ac, t.flag)) = some (61441, .eq) := by decide

/-- AR7. -/
theorem test_subm_wraps : next (step (launched 0 [0xA004] [(4, 255)])) (fun t => t.ac) = some 65281 := by decide

/-- AR4. -/
theorem test_mul_wraps : next (step ((launched 0 [0xBFFF] []).setAc 65535)) (fun t => t.ac) = some 61441 := by decide

/-- AR14. -/
theorem test_mulm_wraps :
    next (step ((launched 0 [0xC001] [(1, 255)]).setAc 65535)) (fun t => t.ac) = some 65281 := by decide

/-- SY1's DISP. -/
theorem test_disp :
    next (step ((launched 0 [0xD777] []).setAc 42)) (fun t => (t.events, t.ac, t.pc)) =
      some ([.display 42], 42, 1) := by decide

/-- Scenario A's HALT. -/
theorem test_halt :
    next (step ((launched 0 [0xE000] []).setAc 5)) (fun t => (t.halted, t.haltReason, t.ac, t.events)) =
      some (true, .halt, 5, []) := by decide

/-- Scenario D's illegal word. -/
theorem test_illegal15 :
    next (step ((launched 0 [0xF123] []).setAc 1)) (fun t => (t.halted, t.haltReason, t.ac, t.events)) =
      some (true, .unknownOpcode, 1, [.report .unknownOpcode]) := by decide

/-! Fetch, cache, FATAL. -/

/-- FE1: an empty table, as in the reset state. -/
theorem test_fetch_empty_table :
    next (step State.reset) (fun t => (t.haltReason, t.ac, t.pc)) = some (.pcOutOfBounds, 0, 0) := by decide

/-- FE2: PC below LA. -/
theorem test_fetch_below_la :
    next (step (State.ofLaunch { la := 0x10, pc0 := 0x0F, imem := [0xE000] })) (fun t => (t.haltReason, t.pc)) =
      some (.pcOutOfBounds, 0x0F) := by decide

/-- SY3: no step after HALT. -/
theorem test_halted_stays :
    next (step ((launched 0 [0x1009] []).stop .halt)) (fun t => (t.ac, t.pc, t.haltReason)) = some (0, 0, .halt) := by
  decide

/-- The table of section 2.6. -/
theorem test_address_table :
    [0x0000, 0x000F, 0x0010, 0x1234, 0xFFFF, 0x10000, 0x10FFE].map
        (fun a : Addr => (addrOffset a, addrIndex a, addrTag a, blockStart a)) =
      [(0, 0, 0, 0), (1, 7, 0, 14), (0, 0, 1, 16), (0, 2, 291, 0x1234), (1, 7, 4095, 0xFFFE),
       (0, 0, 4096, 65536), (0, 7, 4351, 69630)] := by decide

/-- CA3's first STORE: the fill is made after the write. -/
theorem test_write_allocate :
    next (step ((launched 0 [0x3021] [(0x20, 0x11), (0x21, 0x22)]).setAc 7)) (fun t => (t.lines[0], t.misses)) =
      some (⟨true, 2, 0x11, 7⟩, 1) := by decide

/-- CA3's second STORE: a hit updates the line in place. -/
theorem test_write_hit :
    next (step (((launched 0 [0x3020] [(0x20, 0x11), (0x21, 7)]).setLine 0 ⟨true, 2, 0x11, 7⟩).setAc 9))
        (fun t => (t.lines[0], t.hits, t.misses, t.mem)) =
      some (⟨true, 2, 9, 7⟩, 1, 0, [(0x20, 9), (0x21, 7)]) := by decide

/-- P2's step 6: a conflict replaces the line. -/
theorem test_conflict_replaces :
    next (step ((launched 0xFFF0 [0x2000] [(0xFFFF, 0xFF)]).setLine 0 ⟨true, 4096, 0xFF, 0⟩))
        (fun t => (t.ac, t.lines[0], t.misses, t.oobCount)) =
      some (0, ⟨true, 4095, 0, 0⟩, 1, 0) := by decide

/-- LS2: storing the value an unlisted address reads as removes the entry. -/
theorem test_store_zero_is_unlisted :
    next (step ((launched 0 [0x3001] [(1, 0x55)]).setAc 0x100)) (fun t => (t.mem, t.mem.read 1)) = some ([], 0) := by
  decide

/-- A state under OOB_POLICY = FATAL at LA = 0xFFF0. -/
def fatal (imem : List Word) : State :=
  State.ofLaunch { la := 0xFFF0, pc0 := 0xFFF0, imem := imem, oobPolicy := .fatal }

/-- OB3. -/
theorem test_fatal_store : faultOf (step (fatal [0x3010])) = some (.memoryOutOfBounds 65536 .write) := by decide

/-- R49 on a read: the fill's first byte. -/
theorem test_fatal_read : faultOf (step (fatal [0x2011])) = some (.memoryOutOfBounds 65536 .read) := by decide

/-! Outputs. -/

/-- P1's hit ratio, "1200/13", printed "92.31". -/
theorem test_hit_ratio_p1 :
    let s := { State.reset with hits := 12, misses := 1 }
    s.hitRatio = 1200 / 13 ∧ s.hitRatioText = ['9', '2', '.', '3', '1'] := by
  constructor
  · norm_num [State.hitRatio, State.accesses]
  · decide

/-- P2's and P4's printed hit ratios, CA1's, and that of a run with no access. -/
theorem test_hit_ratio_hundredths :
    ({ State.reset with hits := 2, misses := 4 } : State).hitRatioHundredths = 3333 ∧
    ({ State.reset with hits := 20, misses := 2 } : State).hitRatioHundredths = 9091 ∧
    ({ State.reset with hits := 1, misses := 1 } : State).hitRatioHundredths = 5000 ∧
    State.reset.hitRatioHundredths = 0 := by decide

/-- R65: a run has a result once `halted` is set, and none before. -/
theorem test_result :
    State.reset.result = none ∧
    (State.reset.stop .halt).result.map (fun r => (r.haltReason, r.ac)) = some (.halt, 0) ∧
    (State.reset.stop .halt).status.haltReason = 1 := by
  refine ⟨rfl, rfl, rfl⟩

/-! Launch and assembler. -/

/-- R51's example line. -/
theorem test_program_line :
    parseProgramLine ['0', '0', '0', '1', '0', '0', '0', '0', '0', '0', '0', '0', '0', '1', '0', '1'] = some 0x1005 := by
  decide

/-- R102: a bad line is skipped and reported, an empty one ignored, and no gap is left. -/
theorem test_program_skips :
    loadProgram [programLineOf 0x1005, ['#'], [], programLineOf 0xE000] = ⟨[0x1005, 0xE000], [1]⟩ := by decide

/-- R101: LA first, then PC0; one line is too few (D17). -/
theorem test_config :
    (parseConfig [['0', 'x', 'F', 'f', 'F', '0'], ['0', 'x', '1', '0']]).toOption = some (0xFFF0, 0x10) ∧
    (parseConfig [['0', 'x', '0']]).toOption = none ∧ (parseConfigLine ['0']).toOption = none ∧
    (parseConfigLine ['0', 'x', 'g']).toOption = none ∧
    (parseConfigLine ['0', 'x', '1', '0', '0', '0', '0']).toOption = none := by decide

/-- R33, D16: setup data is copied in, and none may lie at or above 65536. -/
theorem test_load_data :
    (loadData 3 [9, 0, 7] [(4, 1)]).toOption = some [(3, 9), (5, 7)] ∧
    (loadData 65535 [1, 2] []).toOption = none := by decide

/-- R101, D5: a table that does not fit is refused. -/
theorem test_program_too_large :
    (launchOf { program := [programLineOf 0, programLineOf 0],
                config := [['0', 'x', 'F', 'F', 'F', 'F'], ['0', 'x', '0']] }).toOption = none := by decide

/-- R56's syntax. -/
theorem test_assemble :
    assemble ['L', 'O', 'A', 'D', ' ', '5'] = some (.load 5) ∧
    assemble ['C', 'J', 'M', 'P', ' ', '0', 'x', 'F', 'f', 'F'] = some (.cjmp 4095) ∧
    assemble ['H', 'A', 'L', 'T'] = some (.halt 0) ∧ assemble ['D', 'I', 'S', 'P', ' ', '7'] = some (.disp 7) ∧
    assemble ['.', 'w', 'o', 'r', 'd', ' ', '0', 'x', 'F', '1', '2', '3'] = some (.illegal15 0x123) := by decide

theorem test_assemble_refuses :
    assemble ['L', 'O', 'A', 'D'] = none ∧ assemble ['L', 'O', 'A', 'D', ' ', '4', '0', '9', '6'] = none ∧
    assemble ['l', 'o', 'a', 'd', ' ', '5'] = none ∧
    assemble ['.', 'w', 'o', 'r', 'd', ' ', '0', 'x', 'E', '0', '0', '0'] = none := by decide

/-- The codes of R18 and R20. -/
theorem test_encodings :
    (flagBits .lt, haltReasonCode .pcOutOfBounds, haltReasonCode .unknownOpcode) = (0b11, 2, 3) := by decide

/-! Witnesses: a state and operands that meet the hypotheses of each statement that has any. -/

/-- A running state at LA = 0xFFF0 under FATAL whose line 0 holds the absent block 65536. -/
def fatalResident (imem : List Word) : State := (fatal imem).setLine 0 ⟨true, 4096, 0x77, 0⟩

/-- LoadmLoadsTheByteZeroExtended, AddmAddsTheByteMod65536, SubmSubtractsTheByteMod65536,
MulmMultipliesByTheByteMod65536, CmpmComparesLowByteUnsigned: an absent miss under ABSORB at the largest address, the
last present address under FATAL, and an absent hit under FATAL. -/
theorem witness_read_completes :
    (launched 0xFFFF [] []).ReadCompletes ((launched 0xFFFF [] []).relative 4095) ∧
    (fatal []).ReadCompletes ((fatal []).relative 15) ∧
    (fatalResident []).ReadCompletes ((fatalResident []).relative 16) := by decide

/-- CmpmComparesLowByteUnsigned: greater, equal and less all occur. -/
theorem witness_cmpm_clauses :
    let s := launched 0 [] [(3, 5)]
    s.readByte (s.relative 3) = 5 ∧ (s.setAc 6).acLow = 6 ∧ (s.setAc 0x105).acLow = 5 ∧ (s.setAc 4).acLow = 4 := by decide

/-- CjmpIsTakenExactlyOnGreater, each clause, and JmpGoesToLaPlusOperand: a target just past the table's end. -/
theorem witness_jumps :
    ((launched 0 [] []).setFlag .gt).flag = .gt ∧ (launched 0 [] []).flag ≠ .gt ∧
    ((launched 0 [] []).setFlag .lt).flag ≠ .gt ∧
    (let s := (launched 0 [0x5001] []).setFlag .gt
     s.flag = .gt ∧ s.halted = false ∧ s.imem.length ≤ (1 : Operand).toNat) := by decide

/-- StoreWritesTheLowByteThroughTheCache: an absent address under ABSORB, the last present one under FATAL. -/
theorem witness_store :
    ((launched 0xFFFF [] [(0, 1)]).MemoryCanonical ∧
      (launched 0xFFFF [] [(0, 1)]).WriteCompletes ((launched 0xFFFF [] [(0, 1)]).relative 4095)) ∧
    ((fatal []).MemoryCanonical ∧ (fatal []).WriteCompletes ((fatal []).relative 15)) := by decide

/-- FatalAbsentReadFaults and FatalAbsentStoreFaults, at the first absent address. -/
theorem witness_fatal :
    (fatal []).oobPolicy = .fatal ∧ 65536 ≤ (fatal []).la.toNat + (16 : Operand).toNat ∧
    (fatal []).isHit ((fatal []).relative 16) = false := by decide

/-- StepExecutesTheFetchedInstruction and NextPcIsExact, at the last instruction address 65535. -/
theorem witness_step :
    let s := launched 0xFFFF [0x1005] []
    s.ProgramFits ∧ s.halted = false ∧ s.pc.toNat = s.la.toNat + 0 ∧ s.imem[0]? = some 0x1005 ∧
    fetch s = some 0x1005 ∧ next (step s) (fun t => (t.halted, t.pc)) = some (false, 65536) := by decide

/-- NextPcIsExact, its other clauses: JMP, CJMP on GT to the largest target, CJMP on LT. -/
theorem witness_next_pc :
    (let s := launched 0xFFFF [0x6000] []
     s.ProgramFits ∧ fetch s = some 0x6000 ∧ next (step s) (fun t => (t.halted, t.pc)) = some (false, 65535)) ∧
    (let s := (launched 0xFFFF [0x5FFF] []).setFlag .gt
     s.ProgramFits ∧ fetch s = some 0x5FFF ∧ next (step s) (fun t => (t.halted, t.pc)) = some (false, 69630)) ∧
    (let s := (launched 0xFFFF [0x5FFF] []).setFlag .lt
     s.ProgramFits ∧ fetch s = some 0x5FFF ∧ next (step s) (fun t => (t.halted, t.pc)) = some (false, 65536)) := by
  decide

/-- FetchOutsideTheProgramHalts: just below LA, and at LA + N. -/
theorem witness_fetch_outside :
    (let s := State.ofLaunch { la := 0x10, pc0 := 0x0F, imem := [0xE000] }
     s.halted = false ∧ s.pc.toNat < s.la.toNat) ∧
    (let s := State.ofLaunch { la := 0x10, pc0 := 0x11, imem := [0xE000] }
     s.halted = false ∧ s.la.toNat + s.imem.length ≤ s.pc.toNat) := by decide

/-- HaltedEngineStaysAsItIs. -/
theorem witness_halted : (State.reset.stop .halt).halted = true := by decide

/-- EveryStepCompletesUnderAbsorb. -/
theorem witness_absorb : State.reset.oobPolicy = .absorb := by decide

/-- OnlyFaultIsFatalMemoryOutOfBounds: a step that faults. -/
theorem witness_fault : ∃ f, step (fatal [0x3010]) = .fault f := ⟨_, rfl⟩

/-- RunsEndOnlyInThreeWays: each of the three. -/
theorem witness_run_ends :
    (∃ t, State.reset.halted = false ∧ step State.reset = .next t ∧ t.halted = true) ∧
    (∃ t, step (launched 0 [0xE000] []) = .next t ∧ t.halted = true) ∧
    (∃ t, step (launched 0 [0xF000] []) = .next t ∧ t.halted = true) :=
  ⟨⟨_, rfl, rfl, rfl⟩, ⟨_, rfl, rfl⟩, ⟨_, rfl, rfl⟩⟩

/-- FlagIsWrittenOnlyByCmpm and OnlyStoreWritesMemoryAndOnlyItsByte, with an instruction that is neither CMPM nor STORE. -/
theorem witness_flag_and_memory :
    (∃ t, exec (.load 5) State.reset = .next t) ∧ (∀ n, Instr.load 5 ≠ .cmpm n) ∧
    (∀ n, Instr.load 5 = .store n → 0 ≠ (State.reset.relative n).toNat) :=
  ⟨⟨_, rfl⟩, fun _ => by simp, fun _ h => by simp at h⟩

/-- OnlyStoreWritesMemoryAndOnlyItsByte, beside a STORE's byte. -/
theorem witness_store_beside :
    (∃ t, exec (.store 0) State.reset = .next t) ∧
    ∀ n, Instr.store 0 = .store n → 1 ≠ (State.reset.relative n).toNat :=
  ⟨⟨_, rfl⟩, fun n h => by cases h; decide⟩

/-- AcIsWrittenOnlyByItsEightOpcodes, and EachAccessIsCountedOnce and LinesStayValidAndOthersUntouched with an
instruction that accesses the cache. -/
theorem witness_ac_and_access :
    (∃ t, exec (.cmpm 5) State.reset = .next t) ∧ (Instr.cmpm 5).opcode.toNat ∉ [1, 2, 7, 8, 9, 10, 11, 12] :=
  ⟨⟨_, rfl⟩, by decide⟩

/-- LinesStayValidAndOthersUntouched: a valid line, and a line that changes. -/
theorem witness_lines :
    let s := launched 0 [] [] |>.setLine 1 ⟨true, 0, 0, 0⟩
    s.lines[1].valid = true ∧ next (exec (.loadm 0) s) (fun t => t.lines[0]) = some ⟨true, 0, 0, 0⟩ ∧
    s.lines[0] ≠ ⟨true, 0, 0, 0⟩ := by decide

/-- ConfigurationNeverChanges and EventsOnlyGrowAndDiagsAreCounted, with a step that displays. -/
theorem witness_step_next : ∃ t, step (launched 0 [0xD000] []) = .next t ∧ Event.display 0 ∈ t.events :=
  ⟨_, rfl, by decide⟩

/-- EveryLaunchMeetsTheInvariant, at the largest LA and PC0. -/
theorem witness_launch :
    Launch.wf { la := 65535, pc0 := 65535, imem := [0xE000], memInit := [(65535, 1)] } = true := by decide

/-- EveryBootMeetsTheInvariant. -/
theorem witness_boot :
    ∃ s, boot { program := [programLineOf 0x1005], config := [['0', 'x', '1', '0'], ['0', 'x', '1', '0']],
                data := [(3, [9])] } = .ok s := ⟨_, rfl⟩

/-- EveryStepKeepsTheInvariant, from a state with a valid line and at the largest tag. -/
theorem witness_invariant :
    ((launched 0xFFF0 [0x2000] [(0xFFFF, 0xFF)]).setLine 7 ⟨true, 4351, 5, 6⟩).Invariant ∧
    ∃ t, step ((launched 0xFFF0 [0x2000] [(0xFFFF, 0xFF)]).setLine 7 ⟨true, 4351, 5, 6⟩) = .next t :=
  ⟨by decide, _, rfl⟩

/-- CoherentReadAnswersTheMemoryByte, at the last present address, held by a line. -/
theorem witness_coherent :
    ((launched 0 [] [(65535, 9)]).setLine 7 ⟨true, 4095, 0, 9⟩).Coherent ∧ (65535 : Addr).toNat < 65536 ∧
    ((launched 0 [] [(65535, 9)]).setLine 7 ⟨true, 4095, 0, 9⟩).isHit 65535 = true := by decide

/-- AddressDecomposesIntoTagIndexOffset, the clause on present addresses, at the last one. -/
theorem witness_last_present_tag : (65535 : Addr).toNat < 65536 ∧ (addrTag 65535).toNat = 4095 := by decide

/-- LoadmAfterStoreHitsAndReturnsTheByte, at an absent address. -/
theorem witness_store_next : ∃ t, exec (.store 16) (launched 0xFFF0 [] []) = .next t := ⟨_, rfl⟩

/-- SecondReadOfABlockHits, for the addresses 1 and 0. -/
theorem witness_second_read :
    (State.reset.lineOf 1).valid = false ∧ (1 : Addr).toNat / 2 = (0 : Addr).toNat / 2 ∧
    ∃ x t, cacheRead 1 State.reset = .ok (x, t) := ⟨by decide, by decide, _, _, rfl⟩

/-- CacheIsHiddenForPresentAddresses, with two states that differ in a line and in the counters, at the largest LA. -/
theorem witness_cache_hidden :
    let s := launched 0xF000 [0x2003] [(0xF003, 8)]
    let s' := (s.setLine 1 ⟨true, 0xF00, 0, 8⟩).countHit
    s.Invariant ∧ s'.Invariant ∧ SameButCache s s' ∧ s.la.toNat + 4095 < 65536 ∧ s.lines ≠ s'.lines ∧
      ∃ t, step s = .next t := by
  refine ⟨by decide, by decide, ?_, by decide, by decide, _, rfl⟩
  exact ⟨rfl, rfl, rfl, ⟨rfl, rfl⟩, ⟨rfl, rfl, rfl⟩, rfl, rfl, rfl⟩

/-- HitRatioIsHitsOverAccesses: with no access, and with some. -/
theorem witness_hit_ratio :
    State.reset.hits + State.reset.misses = 0 ∧ State.reset.countHit.hits + State.reset.countHit.misses ≠ 0 := by decide

/-- ImmediateSequencesComputeMod65536: AR9. -/
theorem witness_sequence :
    exactResults [.load 4095, .mul 16, .add 4095, .add 4095] (State.reset.ac.toNat) = some 73710 := by decide

end Sys2Proof.Tests
end

section
/-! SUPPORT. The events an instruction emits, and the count of the Diag events among them (spec/10_state.md R25). -/
namespace Sys2Proof.Machine

/-- From `s` to `t` exactly the events `es` were appended, and `oob_count` grew by the Diag events among them. -/
def State.LogsEvents (s : State) (es : List Event) (t : State) : Prop :=
  t.events = s.events ++ es ∧ t.oobCount = s.oobCount + es.countP Event.isDiag

/-- A state with the same events and the same `oob_count` logged nothing. -/
theorem State.LogsEvents.of_same {s t : State} (he : t.events = s.events) (hc : t.oobCount = s.oobCount) :
    s.LogsEvents [] t := by
  simp [State.LogsEvents, he, hc]

/-- What is logged one after the other is logged together. -/
theorem State.LogsEvents.trans {s t u : State} {es es' : List Event} (h : s.LogsEvents es t)
    (h' : t.LogsEvents es' u) : s.LogsEvents (es ++ es') u := by
  obtain ⟨he, hc⟩ := h
  obtain ⟨he', hc'⟩ := h'
  exact ⟨by rw [he', he, List.append_assoc], by rw [hc', hc, List.countP_append, Nat.add_assoc]⟩

/-! The events of an access. -/

/-- The Diag event of a `MemWrite` to `ea`: none where the byte exists (R32). -/
def memWriteEvents (ea : Addr) : List Event := if ea.toNat < 65536 then [] else [.diag ea .write]

/-- The events of a completed `CacheRead`: those of the fill, on a miss (R36, R41). -/
def State.readEvents (s : State) (ea : Addr) : List Event := if s.isHit ea then [] else fillEvents ea

/-- The events of a completed `CacheWrite`: that of the Memory write, then those of the fill on a miss (R37, R41). -/
def State.writeEvents (s : State) (ea : Addr) : List Event := memWriteEvents ea ++ s.readEvents ea

theorem isDiag_of_mem_fillEvents {ea : Addr} {e : Event} (h : e ∈ fillEvents ea) : e.isDiag = true := by
  unfold fillEvents at h
  split at h
  · cases h
  · obtain rfl | rfl : e = _ ∨ e = _ := by simpa using h
    all_goals rfl

theorem isDiag_of_mem_memWriteEvents {ea : Addr} {e : Event} (h : e ∈ memWriteEvents ea) : e.isDiag = true := by
  unfold memWriteEvents at h
  split at h
  · cases h
  · rw [List.mem_singleton.mp h]; rfl

theorem State.isDiag_of_mem_readEvents {s : State} {ea : Addr} {e : Event} (h : e ∈ s.readEvents ea) :
    e.isDiag = true := by
  unfold State.readEvents at h
  split at h
  · cases h
  · exact isDiag_of_mem_fillEvents h

theorem State.isDiag_of_mem_writeEvents {s : State} {ea : Addr} {e : Event} (h : e ∈ s.writeEvents ea) :
    e.isDiag = true :=
  (List.mem_append.mp h).elim isDiag_of_mem_memWriteEvents State.isDiag_of_mem_readEvents

theorem length_memWriteEvents_le (ea : Addr) : (memWriteEvents ea).length ≤ 1 := by
  unfold memWriteEvents; split <;> simp

theorem length_fillEvents_le (ea : Addr) : (fillEvents ea).length ≤ 2 := by
  unfold fillEvents; split <;> simp

theorem State.length_readEvents_le (s : State) (ea : Addr) : (s.readEvents ea).length ≤ 2 := by
  unfold State.readEvents
  split
  · simp
  · exact length_fillEvents_le ea

theorem State.length_writeEvents_le (s : State) (ea : Addr) : (s.writeEvents ea).length ≤ 3 := by
  have hw := length_memWriteEvents_le ea
  have hr := s.length_readEvents_le ea
  rw [State.writeEvents, List.length_append]
  omega

/-! Each access logs its events. -/

/-- A fill logs its Diag events, all of which it counts. -/
theorem State.afterFill_logs (s : State) (ea : Addr) : s.LogsEvents (fillEvents ea) (s.afterFill ea) := by
  have hcount : (fillEvents ea).countP Event.isDiag = (fillEvents ea).length :=
    List.countP_eq_length.mpr fun _ => isDiag_of_mem_fillEvents
  exact ⟨rfl, by rw [hcount]; rfl⟩

theorem State.afterMemWrite_logs (s : State) (ea : Addr) (b : Byte) :
    s.LogsEvents (memWriteEvents ea) (s.afterMemWrite ea b) := by
  unfold State.afterMemWrite memWriteEvents
  split
  · exact .of_same rfl rfl
  · exact ⟨rfl, rfl⟩

theorem State.afterRead_logs (s : State) (ea : Addr) : s.LogsEvents (s.readEvents ea) (s.afterRead ea) := by
  unfold State.afterRead State.readEvents
  split
  · exact .of_same rfl rfl
  · exact s.countMiss.afterFill_logs ea

theorem State.afterWrite_logs (s : State) (ea : Addr) (b : Byte) :
    s.LogsEvents (s.writeEvents ea) (s.afterWrite ea b) := by
  refine (s.afterMemWrite_logs ea b).trans ?_
  unfold State.afterWrite State.readEvents
  split
  · exact .of_same rfl rfl
  · exact (s.afterMemWrite ea b).countMiss.afterFill_logs ea

/-! The events of an instruction. -/

/-- What a completed instruction emits, in order (R12, R95). -/
def emittedEvents (i : Instr) (s : State) : List Event :=
  match i with
  | .loadm n | .cmpm n | .addm n | .subm n | .mulm n => s.readEvents (s.relative n)
  | .store n => s.writeEvents (s.relative n)
  | .disp _ => [.display s.ac]
  | .illegal15 _ => [.report .unknownOpcode]
  | .start _ | .load _ | .cjmp _ | .jmp _ | .add _ | .sub _ | .mul _ | .halt _ => []

/-- An instruction that completes logs what it emits: the accesses those of the cache, DISP and opcode 15 their own. -/
theorem exec_logs {i : Instr} {s t : State} (h : exec i s = .next t) :
    s.LogsEvents (emittedEvents i s) t := by
  rw [exec_next_iff] at h
  cases i with
  | loadm n | cmpm n | addm n | subm n | mulm n =>
    obtain ⟨-, rfl⟩ := h
    exact s.afterRead_logs (s.relative n)
  | store n =>
    obtain ⟨-, rfl⟩ := h
    exact s.afterWrite_logs (s.relative n) s.acLow
  | disp x | illegal15 x =>
    obtain rfl := h
    exact ⟨rfl, rfl⟩
  | cjmp n =>
    obtain rfl := h
    split <;> exact .of_same rfl rfl
  | start x | load n | jmp n | add n | sub n | mul n | halt x =>
    obtain rfl := h
    exact .of_same rfl rfl

/-- STORE emits the most: its write and the two reads of its fill. -/
theorem length_emittedEvents_le (i : Instr) (s : State) : (emittedEvents i s).length ≤ 3 := by
  cases i with
  | loadm n | cmpm n | addm n | subm n | mulm n => exact (s.length_readEvents_le _).trans (by decide)
  | store n => exact s.length_writeEvents_le _
  | disp x | illegal15 x => simp [emittedEvents]
  | start x | load n | cjmp n | jmp n | add n | sub n | mul n | halt x => exact Nat.zero_le 3

/-- Only DISP emits a Display event (R80): an access emits Diag events, and opcode 15 a Report. -/
theorem eq_disp_of_display_mem_emittedEvents {i : Instr} {s : State} {v : Word}
    (h : Event.display v ∈ emittedEvents i s) : ∃ x, i = .disp x := by
  cases i with
  | disp x => exact ⟨x, rfl⟩
  | loadm n | cmpm n | addm n | subm n | mulm n =>
    have hdiag : (Event.display v).isDiag = true := State.isDiag_of_mem_readEvents h
    cases hdiag
  | store n =>
    have hdiag : (Event.display v).isDiag = true := State.isDiag_of_mem_writeEvents h
    cases hdiag
  | illegal15 x => cases List.mem_singleton.mp h
  | start x | load n | cjmp n | jmp n | add n | sub n | mul n | halt x => cases h

/-- Settles O39: a halted step logs nothing, a failed fetch one Report, and an instruction what it emits. -/
theorem eventsOnlyGrowAndDiagsAreCounted : Obligations.EventsOnlyGrowAndDiagsAreCounted := by
  unfold Obligations.EventsOnlyGrowAndDiagsAreCounted
  intro s t h
  obtain ⟨-, rfl⟩ | ⟨-, -, rfl⟩ | ⟨-, w, hw, hexec⟩ := step_next_cases h
  · exact ⟨[], by simp⟩
  · exact ⟨[.report .pcOutOfBounds], by simp [Event.isDiag]⟩
  · obtain ⟨hevents, hcount⟩ := exec_logs hexec
    refine ⟨emittedEvents (decode w) s, hevents, length_emittedEvents_le _ _, hcount, fun v hv => ?_⟩
    obtain ⟨x, hx⟩ := eq_disp_of_display_mem_emittedEvents hv
    exact ⟨w, x, hw, hx⟩

end Sys2Proof.Machine
end

section
/-! SUPPORT. Which instructions leave FLAG, AC and the configuration alone, and the encodings of FLAG and of the
halt reason (spec/10_state.md R14, R18, R20 to R22). -/
namespace Sys2Proof.Machine

theorem State.afterRead_sameConfiguration (s : State) (ea : Addr) : SameConfiguration s (s.afterRead ea) :=
  ⟨s.afterRead_la ea, s.afterRead_imem ea, s.afterRead_oobPolicy ea⟩

theorem State.afterWrite_sameConfiguration (s : State) (ea : Addr) (b : Byte) :
    SameConfiguration s (s.afterWrite ea b) :=
  ⟨s.afterWrite_la ea b, s.afterWrite_imem ea b, s.afterWrite_oobPolicy ea b⟩

/-- No instruction writes LA, IMEM or the launch switch: an access goes to data memory and the cache (R47). -/
theorem exec_sameConfiguration {i : Instr} {s t : State} (h : exec i s = .next t) : SameConfiguration s t := by
  rw [exec_next_iff] at h
  cases i with
  | loadm n | cmpm n | addm n | subm n | mulm n =>
    obtain ⟨-, rfl⟩ := h
    exact s.afterRead_sameConfiguration (s.relative n)
  | store n =>
    obtain ⟨-, rfl⟩ := h
    exact s.afterWrite_sameConfiguration (s.relative n) s.acLow
  | cjmp n =>
    obtain rfl := h
    split <;> exact ⟨rfl, rfl, rfl⟩
  | start x | load n | jmp n | add n | sub n | mul n | disp x | halt x | illegal15 x =>
    obtain rfl := h
    exact ⟨rfl, rfl, rfl⟩

/-- Settles O35: a halted step and a failed fetch write none of the three, nor does any instruction. -/
theorem configurationNeverChanges : Obligations.ConfigurationNeverChanges := by
  unfold Obligations.ConfigurationNeverChanges
  intro s t h
  obtain ⟨-, rfl⟩ | ⟨-, -, rfl⟩ | ⟨-, w, -, hexec⟩ := step_next_cases h
  · exact ⟨rfl, rfl, rfl⟩
  · exact ⟨rfl, rfl, rfl⟩
  · exact exec_sameConfiguration hexec

/-- Settles O33: the accesses keep FLAG, and CMPM alone sets it afterwards. -/
theorem flagIsWrittenOnlyByCmpm : Obligations.FlagIsWrittenOnlyByCmpm := by
  unfold Obligations.FlagIsWrittenOnlyByCmpm
  intro i s t h hcmpm
  rw [exec_next_iff] at h
  cases i with
  | cmpm n => exact absurd rfl (hcmpm n)
  | loadm n | addm n | subm n | mulm n =>
    obtain ⟨-, rfl⟩ := h
    exact s.afterRead_flag (s.relative n)
  | store n =>
    obtain ⟨-, rfl⟩ := h
    exact s.afterWrite_flag (s.relative n) s.acLow
  | cjmp n =>
    obtain rfl := h
    split <;> rfl
  | start x | load n | jmp n | add n | sub n | mul n | disp x | halt x | illegal15 x =>
    obtain rfl := h
    rfl

/-- Settles O34: of the other eight opcodes, CMPM and STORE access the cache, which keeps AC, and the rest touch other
fields. -/
theorem acIsWrittenOnlyByItsEightOpcodes : Obligations.AcIsWrittenOnlyByItsEightOpcodes := by
  unfold Obligations.AcIsWrittenOnlyByItsEightOpcodes
  intro i s t h hop
  rw [exec_next_iff] at h
  cases i with
  | load n | loadm n | add n | addm n | sub n | subm n | mul n | mulm n => simp [Instr.opcode] at hop
  | cmpm n =>
    obtain ⟨-, rfl⟩ := h
    exact s.afterRead_ac (s.relative n)
  | store n =>
    obtain ⟨-, rfl⟩ := h
    exact s.afterWrite_ac (s.relative n) s.acLow
  | cjmp n =>
    obtain rfl := h
    split <;> rfl
  | start x | jmp n | disp x | halt x | illegal15 x =>
    obtain rfl := h
    rfl

/-- Settles O52, flag by flag; the codes are those of the definition. -/
theorem flagAndHaltReasonEncodings : Obligations.FlagAndHaltReasonEncodings := by
  unfold Obligations.FlagAndHaltReasonEncodings
  refine ⟨fun f => ?_, rfl, rfl, rfl, rfl, rfl, rfl, rfl⟩
  cases f with
  | gt | eq | lt => decide

end Sys2Proof.Machine
end

section
/-! SUPPORT. The cache is hidden at present addresses (spec/10_state.md R28, spec/20_memory.md R40): up to the
cache, a step of a coherent state is a step of a machine that has none. -/
namespace Sys2Proof.Machine

/-! What is left of a state without its cache. -/

/-- `s` with the cache and its two counters as they are after reset. -/
def State.withoutCache (s : State) : State :=
  { s with lines := Vector.replicate numLines CacheLine.empty, hits := 0, misses := 0 }

/-- Two states differ at most in the cache exactly when they are equal without it. -/
theorem sameButCache_iff {s t : State} : SameButCache s t ↔ t.withoutCache = s.withoutCache := by
  constructor
  · rintro ⟨hac, hpc, hflag, ⟨hhalted, hreason⟩, ⟨hla, himem, hpolicy⟩, hoob, hmem, hevents⟩
    simp only [State.withoutCache, hac, hpc, hflag, hhalted, hreason, hla, himem, hpolicy, hoob, hmem, hevents]
  · intro h
    obtain ⟨hac, hpc, hflag, hhalted, hreason, hla, himem, -, -, -, hoob, hmem, hevents, hpolicy⟩ := State.mk.inj h
    exact ⟨hac, hpc, hflag, ⟨hhalted, hreason⟩, ⟨hla, himem, hpolicy⟩, hoob, hmem, hevents⟩

/-! Accesses to present addresses. -/

/-- Tag, index and offset of an address give it back (R35). -/
theorem lineAddress_of_addr (a : Addr) : lineAddress (addrIndex a) (addrTag a) (addrOffset a).toNat = a.toNat := by
  rw [lineAddress, addrIndex_val, addrTag_toNat, addrOffset_toNat]
  omega

/-- In a coherent state a `CacheRead` of a present address answers the Memory's byte, hit or miss (R40). -/
theorem State.readByte_of_coherent {s : State} {ea : Addr} (hc : s.Coherent) (ha : ea.toNat < 65536) :
    s.readByte ea = s.mem.read ea.toNat := by
  unfold State.readByte
  split
  case isFalse => rw [State.memoryByte, if_pos ha]
  case isTrue hhit =>
    obtain ⟨hvalid, htag⟩ : (s.lineOf ea).valid = true ∧ (s.lineOf ea).tag = addrTag ea := by
      simpa [State.isHit] using hhit
    obtain ⟨h0, h1⟩ := hc (addrIndex ea) hvalid
    have haddr := lineAddress_of_addr ea
    rw [← htag] at haddr
    unfold CacheLine.byte
    split
    case isTrue ho =>
      rw [ho] at haddr
      exact (h0 (haddr ▸ ha)).trans (congrArg s.mem.read haddr)
    case isFalse ho =>
      rw [(BitVec.eq_zero_or_eq_one (addrOffset ea)).resolve_left ho] at haddr
      exact (h1 (haddr ▸ ha)).trans (congrArg s.mem.read haddr)

/-- A fill of a present block changes only the cache: it has no event. -/
theorem State.afterFill_withoutCache (s : State) {ea : Addr} (ha : ea.toNat < 65536) :
    (s.afterFill ea).withoutCache = s.withoutCache := by
  simp [State.afterFill, State.withoutCache, fillEvents, ha]

theorem State.afterRead_withoutCache (s : State) {ea : Addr} (ha : ea.toNat < 65536) :
    (s.afterRead ea).withoutCache = s.withoutCache := by
  unfold State.afterRead
  split
  · rfl
  · exact s.countMiss.afterFill_withoutCache ha

/-- Without the cache, a write to a present address is the Memory's write. -/
theorem State.afterWrite_withoutCache (s : State) {ea : Addr} (b : Byte) (ha : ea.toNat < 65536) :
    (s.afterWrite ea b).withoutCache = s.withoutCache.setMem (s.mem.write ea.toNat b) := by
  have hmem : s.afterMemWrite ea b = s.setMem (s.mem.write ea.toNat b) := if_pos ha
  unfold State.afterWrite
  rw [hmem]
  split
  · rfl
  · exact (s.setMem (s.mem.write ea.toNat b)).countMiss.afterFill_withoutCache ha

/-! The machine without a cache. -/

/-- What an instruction whose address is present does where every access goes straight to data memory. -/
def uncachedExec (i : Instr) (s : State) : State :=
  match i with
  | .start _ => s.advance
  | .load n => (s.setAc (immediate n)).advance
  | .loadm n => (s.setAc (zext16 (s.mem.read (s.relative n).toNat))).advance
  | .store n => (s.setMem (s.mem.write (s.relative n).toNat s.acLow)).advance
  | .cmpm n => (s.setFlag (compareBytes s.acLow (s.mem.read (s.relative n).toNat))).advance
  | .cjmp n => if s.flag = .gt then s.setPc (s.relative n) else s.advance
  | .jmp n => s.setPc (s.relative n)
  | .add n => (s.setAc (s.ac + immediate n)).advance
  | .addm n => (s.setAc (s.ac + zext16 (s.mem.read (s.relative n).toNat))).advance
  | .sub n => (s.setAc (s.ac - immediate n)).advance
  | .subm n => (s.setAc (s.ac - zext16 (s.mem.read (s.relative n).toNat))).advance
  | .mul n => (s.setAc (s.ac * immediate n)).advance
  | .mulm n => (s.setAc (s.ac * zext16 (s.mem.read (s.relative n).toNat))).advance
  | .disp _ => (s.emit (.display s.ac)).advance
  | .halt _ => (s.stop .halt).advance
  | .illegal15 _ => (s.raiseFatal .unknownOpcode).advance

/-- `step` with `uncachedExec` in the place of `exec`. -/
def uncachedStep (s : State) : State :=
  if s.halted then s
  else
    match fetch s with
    | some w => uncachedExec (decode w) s
    | none => s.raiseFatal .pcOutOfBounds

/-- LA + operand is present where LA + 4095 is. -/
theorem State.relative_present {s : State} (hla : s.la.toNat + 4095 < 65536) (n : Operand) :
    (s.relative n).toNat < 65536 := by
  have := n.isLt
  simp only [State.relative, BitVec.toNat_add, BitVec.toNat_setWidth]
  omega

/-- A byte-reading instruction at a present address of a coherent state completes with the Memory's byte. -/
theorem withMemoryByte_of_present {n : Operand} {s : State} (k : Byte → State → State) (hc : s.Coherent)
    (ha : (s.relative n).toNat < 65536) :
    withMemoryByte n s k = .next (k (s.mem.read (s.relative n).toNat) (s.afterRead (s.relative n))) :=
  withMemoryByte_next_iff.mpr ⟨.inr (.inl ha), by rw [State.readByte_of_coherent hc ha]⟩

/-- With present addresses, an instruction of a coherent state completes and does what it does without a cache. -/
theorem exec_simulates_uncachedExec {s : State} (i : Instr) (hc : s.Coherent) (hla : s.la.toNat + 4095 < 65536) :
    ∃ t, exec i s = .next t ∧ t.withoutCache = uncachedExec i s.withoutCache := by
  cases i with
  | loadm n | addm n | subm n | mulm n =>
    have ha := State.relative_present hla n
    exact ⟨_, withMemoryByte_of_present _ hc ha,
      congrArg (fun u => (State.setAc u _).advance) (s.afterRead_withoutCache ha)⟩
  | cmpm n =>
    have ha := State.relative_present hla n
    exact ⟨_, withMemoryByte_of_present _ hc ha,
      congrArg (fun u => (State.setFlag u _).advance) (s.afterRead_withoutCache ha)⟩
  | store n =>
    have ha := State.relative_present hla n
    exact ⟨_, execStore_next_iff.mpr ⟨.inr ha, rfl⟩,
      congrArg State.advance (s.afterWrite_withoutCache s.acLow ha)⟩
  | cjmp n =>
    refine ⟨_, rfl, ?_⟩
    by_cases hgt : s.flag = .gt
    · rw [if_pos hgt]
      exact (if_pos hgt).symm
    · rw [if_neg hgt]
      exact (if_neg hgt).symm
  | start x | load n | jmp n | add n | sub n | mul n | disp x | halt x | illegal15 x => exact ⟨_, rfl, rfl⟩

/-- With present addresses, a step of a coherent state completes and is a step of the machine without a cache. -/
theorem step_simulates_uncachedStep {s : State} (hc : s.Coherent) (hla : s.la.toNat + 4095 < 65536) :
    ∃ t, step s = .next t ∧ t.withoutCache = uncachedStep s.withoutCache := by
  have hhalted : s.withoutCache.halted = s.halted := rfl
  have hfetch : fetch s.withoutCache = fetch s := rfl
  by_cases hh : s.halted = true
  · exact ⟨s, by rw [step, if_pos hh], by rw [uncachedStep, hhalted, if_pos hh]⟩
  · rw [step, uncachedStep, hhalted, hfetch, if_neg hh, if_neg hh]
    cases fetch s with
    | none => exact ⟨_, rfl, rfl⟩
    | some w => exact exec_simulates_uncachedExec (decode w) hc hla

/-- Settles O49: both states step as the one state left of them without the cache does. -/
theorem cacheIsHiddenForPresentAddresses : Obligations.CacheIsHiddenForPresentAddresses := by
  unfold Obligations.CacheIsHiddenForPresentAddresses
  rintro s s' t ⟨-, -, -, -, hc, -⟩ ⟨-, -, -, -, hc', -⟩ hsame hla h
  rw [sameButCache_iff] at hsame
  have hla' : s'.la = s.la := (congrArg State.la hsame :)
  obtain ⟨u, hu, hut⟩ := step_simulates_uncachedStep hc hla
  obtain rfl : u = t := Host.Outcome.next.inj (hu.symm.trans h)
  obtain ⟨t', ht', htt'⟩ := step_simulates_uncachedStep hc' (by rwa [hla'])
  refine ⟨t', ht', sameButCache_iff.mpr ?_⟩
  rw [htt', hut, hsame]

end Sys2Proof.Machine
end

section
/-! SUPPORT. When an instruction has no next state: the FATAL stops at absent addresses (spec/20_memory.md R49). -/
namespace Sys2Proof.Machine

/-- LA + operand has the 17 bits its largest value, 65535 + 4095, needs (R52). -/
theorem State.relative_toNat (s : State) (n : Operand) : (s.relative n).toNat = s.la.toNat + n.toNat := by
  have := s.la.isLt
  have := n.isLt
  simp only [State.relative, BitVec.toNat_add, BitVec.toNat_setWidth]
  omega

/-- An access that does not complete is one of an absent address under FATAL. -/
theorem State.fatal_of_not_writeCompletes {s : State} {ea : Addr} (h : ¬ s.WriteCompletes ea) :
    s.oobPolicy = .fatal ∧ 65536 ≤ ea.toNat := by
  obtain ⟨hpolicy, habsent⟩ := not_or.mp h
  refine ⟨?_, Nat.not_lt.mp habsent⟩
  cases hp : s.oobPolicy with
  | absorb => exact absurd hp hpolicy
  | fatal => rfl

theorem State.fatal_of_not_readCompletes {s : State} {ea : Addr} (h : ¬ s.ReadCompletes ea) :
    s.oobPolicy = .fatal ∧ 65536 ≤ ea.toNat :=
  fatal_of_not_writeCompletes fun hw => h (hw.imp_right .inl)

/-- Under FATAL, a STORE to an absent address does not complete. -/
theorem State.not_writeCompletes {s : State} {ea : Addr} (hp : s.oobPolicy = .fatal) (ha : 65536 ≤ ea.toNat) :
    ¬ s.WriteCompletes ea := by
  rintro (h | h)
  · rw [hp] at h; cases h
  · omega

/-- Under FATAL, a miss at an absent address does not complete. -/
theorem State.not_readCompletes {s : State} {ea : Addr} (hp : s.oobPolicy = .fatal) (ha : 65536 ≤ ea.toNat)
    (hmiss : s.isHit ea = false) : ¬ s.ReadCompletes ea := by
  rintro (h | h | h)
  · rw [hp] at h; cases h
  · omega
  · rw [hmiss] at h; cases h

/-- Settles O24: none of the five reads completes, so each stops at the first byte of its fill. -/
theorem fatalAbsentReadFaults : Obligations.FatalAbsentReadFaults := by
  unfold Obligations.FatalAbsentReadFaults
  intro s n hp habsent hmiss
  rw [← s.relative_toNat n] at habsent
  have hstop := State.not_readCompletes hp habsent hmiss
  refine ⟨blockStart (s.relative n), ?_, withMemoryByte_faults _ hstop, withMemoryByte_faults _ hstop,
    withMemoryByte_faults _ hstop, withMemoryByte_faults _ hstop, withMemoryByte_faults _ hstop⟩
  rw [blockStart_toNat, s.relative_toNat]

/-- Settles O25: the Memory write comes before the tag check, so a hit makes no difference. -/
theorem fatalAbsentStoreFaults : Obligations.FatalAbsentStoreFaults := by
  unfold Obligations.FatalAbsentStoreFaults
  intro s n hp habsent
  rw [← s.relative_toNat n] at habsent
  exact ⟨s.relative n, s.relative_toNat n, execStore_stops (State.not_writeCompletes hp habsent)⟩

/-- The outcome `o` from `s` is a next state, or the FATAL stop of an access to an absent address. -/
def State.CompletesOrFaultsAbsent (s : State) (o : Host.Outcome State Fault Refusal) : Prop :=
  (∃ t, o = .next t) ∨
  (s.oobPolicy = .fatal ∧ ∃ a kind, o = .fault (.memoryOutOfBounds a kind) ∧ 65536 ≤ a.toNat)

/-- The first byte of an absent block is absent: 65536 is even. -/
theorem withMemoryByte_completesOrFaultsAbsent (n : Operand) (s : State) (k : Byte → State → State) :
    s.CompletesOrFaultsAbsent (withMemoryByte n s k) := by
  by_cases h : s.ReadCompletes (s.relative n)
  · exact .inl ⟨_, withMemoryByte_next_iff.mpr ⟨h, rfl⟩⟩
  · obtain ⟨hp, habsent⟩ := State.fatal_of_not_readCompletes h
    refine .inr ⟨hp, _, _, withMemoryByte_faults k h, ?_⟩
    rw [blockStart_toNat]
    omega

theorem execStore_completesOrFaultsAbsent (n : Operand) (s : State) :
    s.CompletesOrFaultsAbsent (execStore n s) := by
  by_cases h : s.WriteCompletes (s.relative n)
  · exact .inl ⟨_, execStore_next_iff.mpr ⟨h, rfl⟩⟩
  · obtain ⟨hp, habsent⟩ := State.fatal_of_not_writeCompletes h
    exact .inr ⟨hp, _, _, execStore_stops h, habsent⟩

theorem exec_completesOrFaultsAbsent (i : Instr) (s : State) : s.CompletesOrFaultsAbsent (exec i s) := by
  cases i with
  | loadm n | cmpm n | addm n | subm n | mulm n => exact withMemoryByte_completesOrFaultsAbsent n s _
  | store n => exact execStore_completesOrFaultsAbsent n s
  | start x | load n | cjmp n | jmp n | add n | sub n | mul n | disp x | halt x | illegal15 x => exact .inl ⟨_, rfl⟩

theorem step_completesOrFaultsAbsent (s : State) : s.CompletesOrFaultsAbsent (step s) := by
  unfold step
  split
  · exact .inl ⟨s, rfl⟩
  · split
    · exact exec_completesOrFaultsAbsent _ s
    · exact .inl ⟨_, rfl⟩

/-- Settles O31: the other outcomes of a step are its next states and the stops at absent addresses. -/
theorem onlyFaultIsFatalMemoryOutOfBounds : Obligations.OnlyFaultIsFatalMemoryOutOfBounds := by
  unfold Obligations.OnlyFaultIsFatalMemoryOutOfBounds
  intro s
  obtain ⟨t, ht⟩ | ⟨hp, a, kind, hfault, habsent⟩ := step_completesOrFaultsAbsent s
  · rw [ht]
    exact ⟨nofun, nofun⟩
  · rw [hfault]
    exact ⟨nofun, fun f hf => ⟨hp, a, kind, (Host.Outcome.fault.inj hf).symm, habsent⟩⟩

end Sys2Proof.Machine
end

section
/-! SUPPORT. Addresses and blocks (spec/20_memory.md R35): the block of an address is its tag and index. -/
namespace Sys2Proof.Machine

/-- Every tag, index and offset are those of one address. -/
theorem exists_addr_of_fields (i : Fin 8) (tag : Tag) (o : BitVec 1) :
    ∃ a : Addr, a.toNat = lineAddress i tag o.toNat ∧ addrIndex a = i ∧ addrTag a = tag ∧ addrOffset a = o := by
  have hi := i.isLt
  have htag := tag.isLt
  have ho := o.isLt
  have ha : (BitVec.ofNat 17 (lineAddress i tag o.toNat)).toNat = lineAddress i tag o.toNat := by
    rw [BitVec.toNat_ofNat, lineAddress]
    omega
  refine ⟨BitVec.ofNat 17 (lineAddress i tag o.toNat), ha, ?_, ?_, ?_⟩
  · rw [Fin.ext_iff, addrIndex_val, ha, lineAddress]
    omega
  · rw [← BitVec.toNat_inj, addrTag_toNat, ha, lineAddress]
    omega
  · rw [← BitVec.toNat_inj, addrOffset_toNat, ha, lineAddress]
    omega

/-- Two addresses share tag and index exactly when they lie in one block. -/
theorem sameTagAndIndex_iff {a b : Addr} :
    (addrTag a = addrTag b ∧ addrIndex a = addrIndex b) ↔ a.toNat / 2 = b.toNat / 2 := by
  rw [← BitVec.toNat_inj, Fin.ext_iff, addrTag_toNat, addrTag_toNat, addrIndex_val, addrIndex_val]
  omega

theorem blockStart_eq_of_sameBlock {a b : Addr} (h : a.toNat / 2 = b.toNat / 2) : blockStart a = blockStart b := by
  rw [← BitVec.toNat_inj, blockStart_toNat, blockStart_toNat, h]

/-- A block is filled alike for either of its addresses. -/
theorem State.filledLine_of_sameBlock (s : State) {a b : Addr} (h : a.toNat / 2 = b.toNat / 2) :
    s.filledLine a = s.filledLine b := by
  rw [State.filledLine, State.filledLine, blockStart_eq_of_sameBlock h, (sameTagAndIndex_iff.mpr h).1]

/-- In one block the offset tells the address. -/
theorem addr_eq_of_sameBlock_of_offset {a b : Addr} (h : a.toNat / 2 = b.toNat / 2)
    (ho : addrOffset a = addrOffset b) : a = b := by
  rw [← BitVec.toNat_inj, addrOffset_toNat, addrOffset_toNat] at ho
  rw [← BitVec.toNat_inj]
  omega

/-- Settles O45 from the three fields' values. -/
theorem addressDecomposesIntoTagIndexOffset : Obligations.AddressDecomposesIntoTagIndexOffset := by
  unfold Obligations.AddressDecomposesIntoTagIndexOffset
  refine ⟨lineAddress_of_addr, fun a b => sameTagAndIndex_iff, fun a ha => ?_⟩
  rw [addrTag_toNat]
  omega

end Sys2Proof.Machine
end

section
/-! SUPPORT. What an access does to the lines and the counters, hit or miss (spec/20_memory.md R36 to R41). -/
namespace Sys2Proof.Machine

/-! Hits. -/

theorem State.isHit_iff {s : State} {ea : Addr} :
    s.isHit ea = true ↔ (s.lineOf ea).valid = true ∧ (s.lineOf ea).tag = addrTag ea := by
  simp [State.isHit]

theorem State.lineOf_congr (s : State) {a b : Addr} (h : addrIndex a = addrIndex b) : s.lineOf a = s.lineOf b :=
  congrArg (fun i : Fin 8 => s.lines[i]) h

/-- Of a block all bytes hit or none does. -/
theorem State.isHit_of_sameBlock {s : State} {a b : Addr} (h : a.toNat / 2 = b.toNat / 2) (ha : s.isHit a = true) :
    s.isHit b = true := by
  obtain ⟨htag, hindex⟩ := sameTagAndIndex_iff.mpr h
  rwa [State.isHit, ← s.lineOf_congr hindex, ← htag]

/-- Two addresses that hit in one line lie in one block. -/
theorem State.sameBlock_of_isHit {s : State} {a b : Addr} (ha : s.isHit a = true) (hb : s.isHit b = true)
    (hindex : addrIndex a = addrIndex b) : a.toNat / 2 = b.toNat / 2 := by
  refine sameTagAndIndex_iff.mp ⟨?_, hindex⟩
  rw [← (isHit_iff.mp ha).2, ← (isHit_iff.mp hb).2, s.lineOf_congr hindex]

/-- Hits depend on the lines alone. -/
theorem State.isHit_congr {s t : State} (ea : Addr) (h : t.lineOf ea = s.lineOf ea) : t.isHit ea = s.isHit ea := by
  rw [State.isHit, State.isHit, h]

theorem State.afterRead_of_hit {s : State} {ea : Addr} (h : s.isHit ea = true) : s.afterRead ea = s.countHit :=
  if_pos h

theorem State.afterRead_of_miss {s : State} {ea : Addr} (h : s.isHit ea = false) :
    s.afterRead ea = s.countMiss.afterFill ea := by
  rw [State.afterRead, h]
  rfl

/-- A `CacheWrite` is a Memory write, then what a `CacheRead` does, then the byte put in the line. -/
theorem State.afterWrite_eq (s : State) (ea : Addr) (b : Byte) :
    s.afterWrite ea b = ((s.afterMemWrite ea b).afterRead ea).setCachedByte ea b := by
  rw [State.afterWrite, State.afterRead, s.afterMemWrite_isHit]
  split <;> rfl

/-! The byte of a line. -/

theorem CacheLine.byte_setByte (l : CacheLine) (o o' : BitVec 1) (v : Byte) :
    (l.setByte o v).byte o' = if o' = o then v else l.byte o' := by
  obtain rfl | rfl := BitVec.eq_zero_or_eq_one o <;> obtain rfl | rfl := BitVec.eq_zero_or_eq_one o' <;> rfl

@[simp] theorem CacheLine.setByte_valid (l : CacheLine) (o : BitVec 1) (v : Byte) :
    (l.setByte o v).valid = l.valid := by
  unfold CacheLine.setByte; split <;> rfl

@[simp] theorem CacheLine.setByte_tag (l : CacheLine) (o : BitVec 1) (v : Byte) : (l.setByte o v).tag = l.tag := by
  unfold CacheLine.setByte; split <;> rfl

theorem State.lines_setLine_of_ne (s : State) {i j : Fin 8} (l : CacheLine) (h : j ≠ i) :
    (s.setLine i l).lines[j] = s.lines[j] := by
  have : i.val ≠ j.val := fun hv => h (Fin.ext hv.symm)
  simp [this]

@[simp] theorem State.lineOf_setCachedByte (s : State) (ea : Addr) (b : Byte) :
    (s.setCachedByte ea b).lineOf ea = (s.lineOf ea).setByte (addrOffset ea) b := by
  simp [State.setCachedByte, State.lineOf]

/-! The lines an access leaves. -/

/-- From `s` to `t` only the line of `ea` can have changed, and it holds the block of `ea`. -/
structure State.InstallsBlock (s : State) (ea : Addr) (t : State) : Prop where
  others : ∀ j : Fin 8, j ≠ addrIndex ea → t.lines[j] = s.lines[j]
  hit : t.isHit ea = true

theorem State.InstallsBlock.trans {s t u : State} {ea : Addr} (h : s.InstallsBlock ea t) (h' : t.InstallsBlock ea u) :
    s.InstallsBlock ea u :=
  ⟨fun j hj => (h'.others j hj).trans (h.others j hj), h'.hit⟩

/-- `InstallsBlock` depends on the lines of the two states alone. -/
theorem State.InstallsBlock.congr {s s' t t' : State} {ea : Addr} (h : s.InstallsBlock ea t)
    (hs : s'.lines = s.lines) (ht : t'.lines = t.lines) : s'.InstallsBlock ea t' := by
  refine ⟨fun j hj => ?_, (isHit_congr ea ?_).trans h.hit⟩
  · rw [hs, ht, h.others j hj]
  · rw [State.lineOf, State.lineOf, ht]

theorem State.afterFill_installsBlock (s : State) (ea : Addr) : s.InstallsBlock ea (s.afterFill ea) := by
  refine ⟨fun j hj => s.lines_setLine_of_ne (s.filledLine ea) hj, ?_⟩
  rw [isHit_iff, s.lineOf_afterFill]
  exact ⟨rfl, rfl⟩

theorem State.afterRead_installsBlock (s : State) (ea : Addr) : s.InstallsBlock ea (s.afterRead ea) := by
  cases h : s.isHit ea with
  | true =>
    rw [afterRead_of_hit h]
    exact ⟨fun j _ => rfl, h⟩
  | false =>
    rw [afterRead_of_miss h]
    exact (s.countMiss.afterFill_installsBlock ea).congr rfl rfl

/-- A byte put in a line that holds the block leaves the block there. -/
theorem State.setCachedByte_installsBlock {s : State} {ea : Addr} (h : s.isHit ea = true) (b : Byte) :
    s.InstallsBlock ea (s.setCachedByte ea b) := by
  refine ⟨fun j hj => s.lines_setLine_of_ne _ hj, ?_⟩
  rw [isHit_iff, s.lineOf_setCachedByte, CacheLine.setByte_valid, CacheLine.setByte_tag]
  exact isHit_iff.mp h

theorem State.afterMemWrite_lines (s : State) (ea : Addr) (b : Byte) : (s.afterMemWrite ea b).lines = s.lines := by
  unfold State.afterMemWrite; split <;> rfl

theorem State.afterWrite_installsBlock (s : State) (ea : Addr) (b : Byte) :
    s.InstallsBlock ea (s.afterWrite ea b) := by
  have hread := (s.afterMemWrite ea b).afterRead_installsBlock ea
  rw [s.afterWrite_eq]
  exact (hread.trans (setCachedByte_installsBlock hread.hit b)).congr (s.afterMemWrite_lines ea b).symm rfl

/-- A line a `CacheWrite` leaves behind answers the byte written. -/
theorem State.readByte_afterWrite (s : State) (ea : Addr) (b : Byte) : (s.afterWrite ea b).readByte ea = b := by
  rw [State.readByte, if_pos (s.afterWrite_installsBlock ea b).hit, s.afterWrite_eq, State.lineOf_setCachedByte,
    CacheLine.byte_setByte, if_pos rfl]

theorem State.InstallsBlock.valid {s t : State} {ea : Addr} (h : s.InstallsBlock ea t) {j : Fin 8}
    (hj : s.lines[j].valid = true) : t.lines[j].valid = true := by
  obtain ⟨hothers, hhit⟩ := h
  by_cases hi : j = addrIndex ea
  · subst hi
    exact (isHit_iff.mp hhit).1
  · rwa [hothers j hi]

/-! The counters. -/

/-- From `s` to `t` one hit or one miss was counted. -/
def State.CountsOneAccess (s t : State) : Prop :=
  (t.hits = s.hits + 1 ∧ t.misses = s.misses) ∨ (t.hits = s.hits ∧ t.misses = s.misses + 1)

theorem State.afterRead_countsOneAccess (s : State) (ea : Addr) : s.CountsOneAccess (s.afterRead ea) := by
  cases h : s.isHit ea with
  | true =>
    rw [afterRead_of_hit h]
    exact .inl ⟨rfl, rfl⟩
  | false =>
    rw [afterRead_of_miss h]
    exact .inr ⟨rfl, rfl⟩

theorem State.afterMemWrite_hits (s : State) (ea : Addr) (b : Byte) : (s.afterMemWrite ea b).hits = s.hits := by
  unfold State.afterMemWrite; split <;> rfl

theorem State.afterMemWrite_misses (s : State) (ea : Addr) (b : Byte) :
    (s.afterMemWrite ea b).misses = s.misses := by
  unfold State.afterMemWrite; split <;> rfl

theorem State.afterWrite_countsOneAccess (s : State) (ea : Addr) (b : Byte) :
    s.CountsOneAccess (s.afterWrite ea b) := by
  have h := (s.afterMemWrite ea b).afterRead_countsOneAccess ea
  rw [State.CountsOneAccess, s.afterMemWrite_hits, s.afterMemWrite_misses] at h
  rw [s.afterWrite_eq]
  exact h

/-! The three statements about one or two accesses. -/

/-- Settles O46: a present address is read without a fault. -/
theorem coherentReadAnswersTheMemoryByte : Obligations.CoherentReadAnswersTheMemoryByte := by
  unfold Obligations.CoherentReadAnswersTheMemoryByte
  intro s ea hc ha
  exact ⟨_, by rw [cacheRead_completes (.inr (.inl ha)), State.readByte_of_coherent hc ha]⟩

/-- A LOADM that hits loads the line's byte and counts a hit. -/
theorem execLoadm_of_hit {s : State} {n : Operand} (h : s.isHit (s.relative n) = true) :
    execLoadm n s = .next (s.countHit.setAc (zext16 (s.readByte (s.relative n)))).advance :=
  withMemoryByte_next_iff.mpr ⟨.inr (.inr h), by rw [State.afterRead_of_hit h]⟩

theorem zext16_toNat (b : Byte) : (zext16 b).toNat = b.toNat :=
  BitVec.toNat_setWidth_of_le (by decide)

/-- Settles O47: the STORE leaves its byte in the line, where the LOADM hits, whatever the Memory has. -/
theorem loadmAfterStoreHitsAndReturnsTheByte : Obligations.LoadmAfterStoreHitsAndReturnsTheByte := by
  unfold Obligations.LoadmAfterStoreHitsAndReturnsTheByte
  intro s t n h
  obtain ⟨-, ht⟩ := execStore_next_iff.mp h
  have hea : t.relative n = s.relative n := by
    rw [ht, State.relative, State.advance_la, s.afterWrite_la, ← State.relative]
  have hhit : t.isHit (t.relative n) = true := by
    rw [hea, ht]
    exact (s.afterWrite_installsBlock (s.relative n) s.acLow).hit
  have hbyte : t.readByte (t.relative n) = s.acLow := by
    rw [hea, ht]
    exact s.readByte_afterWrite (s.relative n) s.acLow
  refine ⟨_, execLoadm_of_hit hhit, ?_, rfl, rfl⟩
  rw [hbyte, State.advance_ac, State.setAc_ac, zext16_toNat, State.acLow, BitVec.toNat_setWidth]

/-- Settles O48: the miss installs the block, and the second address is one of its two. -/
theorem secondReadOfABlockHits : Obligations.SecondReadOfABlockHits := by
  unfold Obligations.SecondReadOfABlockHits
  intro s t a b x hinvalid hblock h
  have hmiss : s.isHit a = false := by rw [State.isHit, hinvalid, Bool.false_and]
  have hc : s.ReadCompletes a := by
    by_contra hc
    rw [cacheRead_faults hc] at h
    cases h
  rw [cacheRead_completes hc] at h
  obtain ⟨-, rfl⟩ := Prod.mk.inj (Except.ok.inj h)
  have hhit : (s.afterRead a).isHit b = true :=
    State.isHit_of_sameBlock hblock (s.afterRead_installsBlock a).hit
  rw [State.afterRead_of_miss hmiss] at hhit ⊢
  refine ⟨rfl, rfl, _, _, cacheRead_completes (.inr (.inr hhit)), ?_⟩
  rw [State.afterRead_of_hit hhit]
  exact ⟨rfl, rfl⟩

end Sys2Proof.Machine
end

section
/-! SUPPORT. What an instruction does to data memory, the lines and the counters (spec/20_memory.md R37 to R39, R44). -/
namespace Sys2Proof.Machine

/-- Data memory, the lines and the counters are the same in `t` as in `s`. -/
def SameStorage (s t : State) : Prop := SameCache s t ∧ t.mem = s.mem

/-- An instruction accesses the cache not at all, by one `CacheRead` or, for STORE, by one `CacheWrite`, at
LA + operand, and does nothing else to data memory and the cache. -/
theorem exec_storage_cases {i : Instr} {s t : State} (h : exec i s = .next t) :
    (i.refersToMemory = false ∧ SameStorage s t) ∨
    (i.refersToMemory = true ∧ SameStorage (s.afterRead (s.relative i.operand)) t) ∨
    (∃ n, i = .store n ∧ SameStorage (s.afterWrite (s.relative n) s.acLow) t) := by
  rw [exec_next_iff] at h
  cases i with
  | loadm n | cmpm n | addm n | subm n | mulm n =>
    obtain ⟨-, rfl⟩ := h
    exact .inr (.inl ⟨rfl, ⟨rfl, rfl, rfl, rfl⟩, rfl⟩)
  | store n =>
    obtain ⟨-, rfl⟩ := h
    exact .inr (.inr ⟨n, rfl, ⟨rfl, rfl, rfl, rfl⟩, rfl⟩)
  | cjmp n =>
    obtain rfl := h
    refine .inl ⟨rfl, ?_⟩
    split <;> exact ⟨⟨rfl, rfl, rfl, rfl⟩, rfl⟩
  | start x | load n | jmp n | add n | sub n | mul n | disp x | halt x | illegal15 x =>
    obtain rfl := h
    exact .inl ⟨rfl, ⟨rfl, rfl, rfl, rfl⟩, rfl⟩

/-- Settles O36: a `CacheRead` keeps data memory, and a `CacheWrite` writes at most its own address. -/
theorem onlyStoreWritesMemoryAndOnlyItsByte : Obligations.OnlyStoreWritesMemoryAndOnlyItsByte := by
  unfold Obligations.OnlyStoreWritesMemoryAndOnlyItsByte
  intro i s t a h hother
  obtain ⟨-, -, hmem⟩ | ⟨-, -, hmem⟩ | ⟨n, rfl, -, hmem⟩ := exec_storage_cases h
  · rw [hmem]
  · rw [hmem, s.afterRead_mem]
  · rw [hmem, s.afterWrite_mem]
    split
    · exact Memory.read_write_other s.mem s.acLow (hother n rfl)
    · rfl

/-- Settles O37: each of the two accesses counts one. -/
theorem eachAccessIsCountedOnce : Obligations.EachAccessIsCountedOnce := by
  unfold Obligations.EachAccessIsCountedOnce
  intro i s t h
  obtain ⟨href, ⟨-, hhits, hmisses, -⟩, -⟩ | ⟨href, ⟨-, hhits, hmisses, -⟩, -⟩ |
    ⟨n, rfl, ⟨-, hhits, hmisses, -⟩, -⟩ := exec_storage_cases h
  · simp [href, hhits, hmisses]
  · have hcount := s.afterRead_countsOneAccess (s.relative i.operand)
    rw [State.CountsOneAccess, ← hhits, ← hmisses] at hcount
    rw [if_pos href]
    omega
  · have hcount := s.afterWrite_countsOneAccess (s.relative n) s.acLow
    rw [State.CountsOneAccess, ← hhits, ← hmisses] at hcount
    rw [Instr.refersToMemory, if_pos rfl]
    omega

/-- An instruction keeps all lines, or refers to memory and installs the block of its own address. -/
theorem exec_lines_cases {i : Instr} {s t : State} (h : exec i s = .next t) :
    t.lines = s.lines ∨ (i.refersToMemory = true ∧ s.InstallsBlock (s.relative i.operand) t) := by
  obtain ⟨-, ⟨hlines, -⟩, -⟩ | ⟨href, ⟨hlines, -⟩, -⟩ | ⟨n, rfl, ⟨hlines, -⟩, -⟩ := exec_storage_cases h
  · exact .inl hlines
  · exact .inr ⟨href, (s.afterRead_installsBlock _).congr rfl hlines⟩
  · exact .inr ⟨rfl, (s.afterWrite_installsBlock _ _).congr rfl hlines⟩

/-- Settles O38: an installed block makes its line valid and leaves the others alone. -/
theorem linesStayValidAndOthersUntouched : Obligations.LinesStayValidAndOthersUntouched := by
  unfold Obligations.LinesStayValidAndOthersUntouched
  intro i s t j h
  obtain hlines | ⟨href, hinstalls⟩ := exec_lines_cases h
  · rw [hlines]
    exact ⟨id, fun hne => absurd rfl hne⟩
  · exact ⟨hinstalls.valid, fun hne => ⟨href, by_contra fun hj => hne (hinstalls.others j hj)⟩⟩

end Sys2Proof.Machine
end

section
/-! SUPPORT. The hit ratio (spec/20_memory.md R38). -/
namespace Sys2Proof.Machine

theorem State.hitRatio_of_noAccess {s : State} (h : s.accesses = 0) : s.hitRatio = 0 := if_pos h

theorem State.hitRatio_of_accesses {s : State} (h : s.accesses ≠ 0) :
    s.hitRatio = ((s.hits * 100 : Nat) : Rat) / (s.accesses : Rat) := if_neg h

/-- The hits are among the accesses, so the ratio is at most 100. -/
theorem State.hitRatio_range (s : State) : 0 ≤ s.hitRatio ∧ s.hitRatio ≤ 100 := by
  by_cases h : s.accesses = 0
  · rw [hitRatio_of_noAccess h]
    norm_num
  · rw [hitRatio_of_accesses h]
    have hpos : (0 : Rat) < s.accesses := Nat.cast_pos.mpr (Nat.pos_of_ne_zero h)
    have hle : s.hits * 100 ≤ 100 * s.accesses := by
      rw [State.accesses]
      omega
    exact ⟨by positivity, (div_le_iff₀ hpos).mpr (by exact_mod_cast hle)⟩

/-- Settles O50, by the definition's two cases. -/
theorem hitRatioIsHitsOverAccesses : Obligations.HitRatioIsHitsOverAccesses := by
  unfold Obligations.HitRatioIsHitsOverAccesses
  intro s
  refine ⟨State.hitRatio_of_noAccess, fun h => ?_, s.hitRatio_range⟩
  rw [State.hitRatio_of_accesses h]
  exact div_mul_cancel₀ _ (Nat.cast_ne_zero.mpr h)

end Sys2Proof.Machine
end

section
/-! SUPPORT. The cache stays coherent (spec/20_memory.md R40), and every step keeps the invariant. -/
namespace Sys2Proof.Machine

/-! Coherence, address by address. -/

/-- Where `a` is present and hits, the line answers the Memory's byte. -/
def State.CoherentAt (s : State) (a : Addr) : Prop :=
  s.isHit a = true → a.toNat < 65536 → (s.lineOf a).byte (addrOffset a) = s.mem.read a.toNat

/-- The two bytes of a line answer for the two addresses of its block. -/
theorem State.coherent_iff {s : State} : s.Coherent ↔ ∀ a, s.CoherentAt a := by
  constructor
  · intro hc a hhit ha
    have h := readByte_of_coherent hc ha
    rwa [State.readByte, if_pos hhit] at h
  · intro hc i hvalid
    have hbyte : ∀ o : BitVec 1, lineAddress i s.lines[i].tag o.toNat < 65536 →
        s.lines[i].byte o = s.mem.read (lineAddress i s.lines[i].tag o.toNat) := by
      intro o hpresent
      obtain ⟨a, ha, hindex, htag, rfl⟩ := exists_addr_of_fields i s.lines[i].tag o
      subst hindex
      have h := hc a (isHit_iff.mpr ⟨hvalid, htag.symm⟩)
      rw [ha] at h
      exact h hpresent
    exact ⟨hbyte 0, hbyte 1⟩

/-- A fill keeps each address coherent: it takes the Memory's bytes, and leaves the other lines alone. -/
theorem State.CoherentAt.afterFill {s : State} {a : Addr} (h : s.CoherentAt a) (ea : Addr) :
    (s.afterFill ea).CoherentAt a := by
  intro hhit ha
  obtain ⟨hothers, hhitEa⟩ := s.afterFill_installsBlock ea
  by_cases hindex : addrIndex a = addrIndex ea
  · have hblock := sameBlock_of_isHit hhit hhitEa hindex
    have hline : (s.afterFill ea).lineOf a = s.filledLine a := by
      rw [State.lineOf_congr _ hindex, s.lineOf_afterFill, s.filledLine_of_sameBlock hblock]
    rw [hline, s.filledLine_byte, State.memoryByte, if_pos ha]
    rfl
  · have hline : (s.afterFill ea).lineOf a = s.lineOf a := hothers _ hindex
    rw [isHit_congr a hline] at hhit
    rw [hline]
    exact h hhit ha

theorem State.CoherentAt.afterRead {s : State} {a : Addr} (h : s.CoherentAt a) (ea : Addr) :
    (s.afterRead ea).CoherentAt a := by
  cases hhit : s.isHit ea with
  | true =>
    rw [afterRead_of_hit hhit]
    exact h
  | false =>
    rw [afterRead_of_miss hhit]
    exact CoherentAt.afterFill (s := s.countMiss) h ea

/-- A Memory write keeps every other address coherent. -/
theorem State.CoherentAt.afterMemWrite {s : State} {a ea : Addr} (h : s.CoherentAt a) (b : Byte) (hne : a ≠ ea) :
    (s.afterMemWrite ea b).CoherentAt a := by
  unfold State.afterMemWrite
  split
  · intro hhit ha
    rw [State.setMem_mem, Memory.read_write_other s.mem b fun hv => hne (BitVec.eq_of_toNat_eq hv)]
    exact h hhit ha
  · exact h

/-- Putting the Memory's byte of `ea` in the line that holds it makes `ea` coherent, and keeps the other addresses so. -/
theorem State.coherentAt_setCachedByte {s : State} {a ea : Addr} {b : Byte} (hhit : s.isHit ea = true)
    (hb : ea.toNat < 65536 → s.mem.read ea.toNat = b) (h : a ≠ ea → s.CoherentAt a) :
    (s.setCachedByte ea b).CoherentAt a := by
  intro hhitA ha
  obtain ⟨hothers, hhitEa⟩ := setCachedByte_installsBlock hhit b
  by_cases hindex : addrIndex a = addrIndex ea
  · have hblock := sameBlock_of_isHit hhitA hhitEa hindex
    have hline : (s.setCachedByte ea b).lineOf a = (s.lineOf a).setByte (addrOffset ea) b := by
      rw [State.lineOf_congr _ hindex, s.lineOf_setCachedByte, s.lineOf_congr hindex]
    rw [hline, CacheLine.byte_setByte]
    split
    case isTrue hoffset =>
      obtain rfl := addr_eq_of_sameBlock_of_offset hblock hoffset
      exact (hb ha).symm
    case isFalse hoffset =>
      exact h (fun hEq => hoffset (congrArg addrOffset hEq)) (isHit_of_sameBlock hblock.symm hhit) ha
  · have hline : (s.setCachedByte ea b).lineOf a = s.lineOf a := hothers _ hindex
    rw [isHit_congr a hline] at hhitA
    rw [hline]
    exact h (fun hEq => hindex (congrArg addrIndex hEq)) hhitA ha

theorem State.afterRead_coherent {s : State} (hc : s.Coherent) (ea : Addr) : (s.afterRead ea).Coherent :=
  coherent_iff.mpr fun a => (coherent_iff.mp hc a).afterRead ea

/-- Memory and line get the same byte; an absent address has only its line. -/
theorem State.afterWrite_coherent {s : State} (hc : s.Coherent) (hm : s.MemoryCanonical) (ea : Addr) (b : Byte) :
    (s.afterWrite ea b).Coherent := by
  rw [coherent_iff, s.afterWrite_eq]
  intro a
  refine coherentAt_setCachedByte ((s.afterMemWrite ea b).afterRead_installsBlock ea).hit (fun hpresent => ?_)
    fun hne => ((coherent_iff.mp hc a).afterMemWrite b hne).afterRead ea
  rw [State.afterRead_mem, State.afterMemWrite, if_pos hpresent]
  exact Memory.read_write_same hm ea.toNat b

/-! Bounded tags. -/

theorem State.relative_le (s : State) (n : Operand) : (s.relative n).toNat ≤ 69630 := by
  have := s.la.isLt
  have := n.isLt
  rw [s.relative_toNat]
  omega

/-- The block of an effective address has a tag of at most 69630 / 16. -/
theorem State.InstallsBlock.tagsBounded {s t : State} {ea : Addr} (h : s.InstallsBlock ea t)
    (hea : ea.toNat ≤ 69630) (htags : s.TagsBounded) : t.TagsBounded := by
  intro i hvalid
  obtain ⟨hothers, hhit⟩ := h
  by_cases hi : i = addrIndex ea
  · subst hi
    have htag : t.lines[addrIndex ea].tag = addrTag ea := (isHit_iff.mp hhit).2
    rw [htag, addrTag_toNat]
    omega
  · rw [hothers i hi] at hvalid ⊢
    exact htags i hvalid

/-! Every instruction keeps each part of the invariant. -/

theorem exec_memoryCanonical {i : Instr} {s t : State} (h : exec i s = .next t) (hm : s.MemoryCanonical) :
    t.MemoryCanonical := by
  obtain ⟨-, -, hmem⟩ | ⟨-, -, hmem⟩ | ⟨n, rfl, -, hmem⟩ := exec_storage_cases h
  · rwa [State.MemoryCanonical, hmem]
  · rwa [State.MemoryCanonical, hmem, s.afterRead_mem]
  · rw [State.MemoryCanonical, hmem, s.afterWrite_mem]
    split
    case isTrue hpresent => exact Memory.wf_write hm hpresent s.acLow
    case isFalse => exact hm

theorem exec_coherent {i : Instr} {s t : State} (h : exec i s = .next t) (hm : s.MemoryCanonical)
    (hc : s.Coherent) : t.Coherent := by
  obtain ⟨-, ⟨hlines, -⟩, hmem⟩ | ⟨-, ⟨hlines, -⟩, hmem⟩ | ⟨n, rfl, ⟨hlines, -⟩, hmem⟩ := exec_storage_cases h
  · rwa [State.Coherent, hlines, hmem]
  · rw [State.Coherent, hlines, hmem]
    exact State.afterRead_coherent hc _
  · rw [State.Coherent, hlines, hmem]
    exact State.afterWrite_coherent hc hm _ _

theorem exec_tagsBounded {i : Instr} {s t : State} (h : exec i s = .next t) (htags : s.TagsBounded) :
    t.TagsBounded := by
  obtain hlines | ⟨-, hinstalls⟩ := exec_lines_cases h
  · rwa [State.TagsBounded, hlines]
  · exact hinstalls.tagsBounded (s.relative_le i.operand) htags

/-- PC goes to the next instruction or to LA + operand (R61). -/
theorem exec_pc_cases {i : Instr} {s t : State} (h : exec i s = .next t) :
    t.pc = s.pc + 1 ∨ t.pc = s.relative i.operand := by
  rw [exec_next_iff] at h
  cases i with
  | jmp n =>
    obtain rfl := h
    exact .inr rfl
  | cjmp n =>
    obtain rfl := h
    split
    · exact .inr rfl
    · exact .inl rfl
  | loadm n | cmpm n | addm n | subm n | mulm n =>
    obtain ⟨-, rfl⟩ := h
    exact .inl (congrArg (· + 1) (s.afterRead_pc (s.relative n)))
  | store n =>
    obtain ⟨-, rfl⟩ := h
    exact .inl (congrArg (· + 1) (s.afterWrite_pc (s.relative n) s.acLow))
  | start x | load n | add n | sub n | mul n | disp x | halt x | illegal15 x =>
    obtain rfl := h
    exact .inl rfl

/-- A fetched instruction lies below 65536, and no jump target above 69630. -/
theorem exec_pcBounded {i : Instr} {s t : State} (h : exec i s = .next t) (hfits : s.ProgramFits)
    (hrange : s.pcInRange = true) : t.PcBounded := by
  have hlt : s.pc.toNat < 65536 := lt_of_lt_of_le (s.pcInRange_iff.mp hrange).2 hfits
  rw [State.PcBounded]
  obtain hpc | hpc := exec_pc_cases h
  · have h1 : (1 : Addr).toNat = 1 := rfl
    rw [hpc, BitVec.toNat_add, h1]
    omega
  · rw [hpc]
    exact s.relative_le i.operand

/-- An instruction leaves the run state alone, or stops the engine with its reason. -/
theorem exec_runState_cases {i : Instr} {s t : State} (h : exec i s = .next t) :
    SameRunState s t ∨ (t.halted = true ∧ t.haltReason ≠ .none) := by
  rw [exec_next_iff] at h
  cases i with
  | halt x | illegal15 x =>
    obtain rfl := h
    exact .inr ⟨rfl, nofun⟩
  | loadm n | cmpm n | addm n | subm n | mulm n =>
    obtain ⟨-, rfl⟩ := h
    exact .inl ⟨s.afterRead_halted (s.relative n), s.afterRead_haltReason (s.relative n)⟩
  | store n =>
    obtain ⟨-, rfl⟩ := h
    exact .inl ⟨s.afterWrite_halted (s.relative n) s.acLow, s.afterWrite_haltReason (s.relative n) s.acLow⟩
  | cjmp n =>
    obtain rfl := h
    split <;> exact .inl ⟨rfl, rfl⟩
  | start x | load n | jmp n | add n | sub n | mul n | disp x =>
    obtain rfl := h
    exact .inl ⟨rfl, rfl⟩

theorem haltRecorded_of_stopped {t : State} (hhalted : t.halted = true) (hreason : t.haltReason ≠ .none) :
    t.HaltRecorded :=
  iff_of_false (by rw [hhalted]; exact nofun) hreason

theorem exec_haltRecorded {i : Instr} {s t : State} (h : exec i s = .next t) (hr : s.HaltRecorded) :
    t.HaltRecorded := by
  obtain ⟨hhalted, hreason⟩ | ⟨hhalted, hreason⟩ := exec_runState_cases h
  · rwa [State.HaltRecorded, hhalted, hreason]
  · exact haltRecorded_of_stopped hhalted hreason

theorem State.LogsEvents.oobRecorded {s t : State} {es : List Event} (h : s.LogsEvents es t) (ho : s.OobRecorded) :
    t.OobRecorded := by
  obtain ⟨hevents, hcount⟩ := h
  rw [State.OobRecorded, hcount, hevents, List.countP_append, ← ho]

/-- A fetched instruction keeps the invariant. -/
theorem exec_invariant {i : Instr} {s t : State} (h : exec i s = .next t) (hrange : s.pcInRange = true)
    (hinv : s.Invariant) : t.Invariant := by
  obtain ⟨hm, hfits, -, hr, hc, htags, ho⟩ := hinv
  obtain ⟨hla, himem, -⟩ := exec_sameConfiguration h
  exact ⟨exec_memoryCanonical h hm, by rwa [State.ProgramFits, hla, State.n, himem], exec_pcBounded h hfits hrange,
    exec_haltRecorded h hr, exec_coherent h hm hc, exec_tagsBounded h htags, (exec_logs h).oobRecorded ho⟩

/-- A fatal condition keeps the invariant: it stops the engine with its reason and logs a Report event. -/
theorem raiseFatal_invariant {s : State} {r : HaltReason} (hr : r ≠ .none) (hinv : s.Invariant) :
    (s.raiseFatal r).Invariant := by
  obtain ⟨hm, hfits, hpc, -, hc, htags, ho⟩ := hinv
  have hlogs : s.LogsEvents [.report r] (s.raiseFatal r) := ⟨rfl, rfl⟩
  exact ⟨hm, hfits, hpc, haltRecorded_of_stopped rfl hr, hc, htags, hlogs.oobRecorded ho⟩

/-- Settles O44: a halted step, a failed fetch and a fetched instruction each keep the invariant. -/
theorem everyStepKeepsTheInvariant : Obligations.EveryStepKeepsTheInvariant := by
  unfold Obligations.EveryStepKeepsTheInvariant
  intro s t hinv h
  obtain ⟨-, rfl⟩ | ⟨-, -, rfl⟩ | ⟨-, w, hw, hexec⟩ := step_next_cases h
  · exact hinv
  · exact raiseFatal_invariant nofun hinv
  · have hrange : s.pcInRange = true := by
      by_contra hrange
      rw [fetch_eq_none_iff.mpr (Bool.eq_false_iff.mpr hrange)] at hw
      cases hw
    exact exec_invariant hexec hrange hinv

end Sys2Proof.Machine
end

section
/-! SUPPORT. The instruction word (spec/30_encoding.md R50, R53, R54): its two fields, and the opcode map between fields
and instructions. -/
namespace Sys2Proof

/-! The fields of a word: the positions of D1, and that they make up the whole word. -/

theorem opcodeField_toNat (w : Word) : (opcodeField w).toNat = w.toNat / 4096 := by
  have := w.isLt
  simp only [opcodeField, BitVec.extractLsb'_toNat, Nat.shiftRight_eq_div_pow]
  omega

theorem operandField_toNat (w : Word) : (operandField w).toNat = w.toNat % 4096 := by
  simp only [operandField, BitVec.extractLsb'_toNat, Nat.shiftRight_zero, Nat.reducePow]

@[simp] theorem opcodeField_append (op : Opcode) (n : Operand) : opcodeField (op ++ n) = op :=
  BitVec.extractLsb'_append_eq_left

@[simp] theorem operandField_append (op : Opcode) (n : Operand) : operandField (op ++ n) = n :=
  BitVec.extractLsb'_append_eq_right

@[simp] theorem opcodeField_append_operandField (w : Word) : opcodeField w ++ operandField w = w :=
  (BitVec.extractLsb'_append_extractLsb'_eq_extractLsb' rfl).trans BitVec.extractLsb'_eq_self

/-! The opcode map of R53: pairs of fields and instructions determine each other. -/

@[simp] theorem decodeFields_opcode_operand (i : Instr) : decodeFields i.opcode i.operand = i := by
  cases i <;> rfl

@[simp] theorem opcode_decodeFields (op : Opcode) (n : Operand) : (decodeFields op n).opcode = op := by
  obtain ⟨k, hk⟩ := op
  interval_cases k <;> rfl

@[simp] theorem operand_decodeFields (op : Opcode) (n : Operand) : (decodeFields op n).operand = n := by
  unfold decodeFields
  split <;> rfl

@[simp] theorem opcode_decode (w : Word) : (decode w).opcode = opcodeField w := opcode_decodeFields _ _

@[simp] theorem operand_decode (w : Word) : (decode w).operand = operandField w := operand_decodeFields _ _

theorem exists_eq_illegal15_iff (i : Instr) : (∃ x, i = .illegal15 x) ↔ i.opcode = 15 := by
  cases i <;> simp [Instr.opcode]

/-- Settles O1: the fields of an encoded instruction are its own opcode and operand. -/
theorem decodeOfEncodeIsTheInstruction : Obligations.DecodeOfEncodeIsTheInstruction := by
  unfold Obligations.DecodeOfEncodeIsTheInstruction
  intro i
  rw [decode, encode, opcodeField_append, operandField_append, decodeFields_opcode_operand]

/-- Settles O2: the decoded instruction keeps both fields, which make up the word. -/
theorem encodeOfDecodeIsTheWord : Obligations.EncodeOfDecodeIsTheWord := by
  unfold Obligations.EncodeOfDecodeIsTheWord
  intro w
  rw [encode, opcode_decode, operand_decode, opcodeField_append_operandField]

/-- Settles O3: the decoded instruction keeps both fields, whose values are quotient and remainder. -/
theorem decodeSplitsWordAt4096 : Obligations.DecodeSplitsWordAt4096 := by
  unfold Obligations.DecodeSplitsWordAt4096
  intro w
  rw [opcode_decode, operand_decode]
  exact ⟨opcodeField_toNat w, operandField_toNat w⟩

/-- Settles O4 by evaluation: the obligation is about sixteen fixed words. -/
theorem specWordsDecodeToTheirInstructions : Obligations.SpecWordsDecodeToTheirInstructions := by
  unfold Obligations.SpecWordsDecodeToTheirInstructions
  decide

/-- Settles O5: the illegal instruction is the one with opcode 15, and the opcode is the word div 4096. -/
theorem illegalWordsAreExactlyFromF000 : Obligations.IllegalWordsAreExactlyFromF000 := by
  unfold Obligations.IllegalWordsAreExactlyFromF000
  intro w
  have hlt := w.isLt
  have h15 : (15 : Opcode).toNat = 15 := rfl
  rw [exists_eq_illegal15_iff, opcode_decode, ← BitVec.toNat_inj, opcodeField_toNat, h15]
  omega

end Sys2Proof
end

section
/-! SUPPORT. Program lines (spec/30_encoding.md R51): the characters of a word, bit 15 first (D2), are a binary numeral
of its value. -/
namespace Sys2Proof.Machine

/-- The low `k` bits of a word as characters, most significant first. -/
def bitChars (w : Word) (k : Nat) : List Char :=
  (List.range k).map fun j => if w.getLsbD (k - 1 - j) then '1' else '0'

theorem programLineOf_eq_bitChars (w : Word) : programLineOf w = bitChars w 16 := rfl

theorem length_bitChars (w : Word) (k : Nat) : (bitChars w k).length = k := by
  rw [bitChars, List.length_map, List.length_range]

theorem bitChars_succ (w : Word) (k : Nat) :
    bitChars w (k + 1) = (if w.getLsbD k then '1' else '0') :: bitChars w k := by
  simp [bitChars, List.range_succ_eq_map, Nat.sub_sub, Nat.add_comm 1]

theorem digitOf_two_bit (b : Bool) : digitOf 2 (if b then '1' else '0') = some b.toNat := by
  cases b <;> rfl

theorem readDigits_cons {base d : Nat} {c : Char} (h : digitOf base c = some d) (acc : Nat) (cs : List Char) :
    readDigits base acc (c :: cs) = readDigits base (acc * base + d) cs := by
  rw [readDigits, h]

theorem readNumeral_of_ne_nil (base : Nat) {cs : List Char} (h : cs ≠ []) :
    readNumeral base cs = readDigits base 0 cs := by
  cases cs with
  | nil => exact absurd rfl h
  | cons c cs => rfl

/-- Reading the low `k` bits after the digits worth `acc`. -/
theorem readDigits_bitChars (w : Word) (k acc : Nat) :
    readDigits 2 acc (bitChars w k) = some (acc * 2 ^ k + w.toNat % 2 ^ k) := by
  induction k generalizing acc with
  | zero => simp [bitChars, readDigits, Nat.mod_one]
  | succ k ih =>
    rw [bitChars_succ, readDigits_cons (digitOf_two_bit _), ih, BitVec.getLsbD, Nat.toNat_testBit, Nat.mod_pow_succ]
    exact congrArg some (by ring)

/-- Settles O53: the line is a numeral of 16 binary digits, so of the word's value modulo 2 ^ 16. -/
theorem programLineOfWordParsesToIt : Obligations.ProgramLineOfWordParsesToIt := by
  unfold Obligations.ProgramLineOfWordParsesToIt
  intro w
  have hlength : (bitChars w 16).length = 16 := length_bitChars w 16
  have hne : bitChars w 16 ≠ [] := List.ne_nil_of_length_eq_add_one hlength
  have hvalue : readNumeral 2 (bitChars w 16) = some w.toNat := by
    rw [readNumeral_of_ne_nil 2 hne, readDigits_bitChars, Nat.zero_mul, Nat.zero_add, Nat.mod_eq_of_lt w.isLt]
  rw [programLineOf_eq_bitChars, parseProgramLine, if_pos hlength, hvalue, Option.map_some, BitVec.ofNat_toNat,
    BitVec.setWidth_eq]

end Sys2Proof.Machine
end

section
/-! SUPPORT. The operand forms of spec/30_encoding.md R52. -/
namespace Sys2Proof.Machine

/-- Settles O6: none of the four meanings reads its operand. -/
theorem ignoredOperandBitsHaveNoEffect : Obligations.IgnoredOperandBitsHaveNoEffect := by
  unfold Obligations.IgnoredOperandBitsHaveNoEffect
  exact fun x y s => ⟨rfl, rfl, rfl, rfl⟩

/-- Settles O7: 17 bits hold the sum of a 16-bit LA and a 12-bit operand. -/
theorem relativeAddressIsExactSum : Obligations.RelativeAddressIsExactSum := by
  unfold Obligations.RelativeAddressIsExactSum
  exact fun s n => ⟨s.relative_toNat n, s.relative_le n⟩

end Sys2Proof.Machine
end

section
/-! SUPPORT. The execution cycle (spec/40_execution_cycle.md R57 to R64): what a running engine's step is, where PC goes,
and what ends a run. -/
namespace Sys2Proof.Machine

/-! The step of a running engine. -/

theorem step_of_fetch {s : State} {w : Word} (hrun : s.halted = false) (hw : fetch s = some w) :
    step s = exec (decode w) s := by
  rw [step, if_neg (Bool.eq_false_iff.mp hrun), hw]

theorem step_of_failedFetch {s : State} (hrun : s.halted = false) (hw : fetch s = none) :
    step s = .next (s.raiseFatal .pcOutOfBounds) := by
  rw [step, if_neg (Bool.eq_false_iff.mp hrun), hw]

/-- A fetch fails exactly below LA and at or above LA + N (R59). -/
theorem fetch_eq_none_iff_outside {s : State} :
    fetch s = none ↔ s.pc.toNat < s.la.toNat ∨ s.la.toNat + s.imem.length ≤ s.pc.toNat := by
  rw [fetch_eq_none_iff, Bool.eq_false_iff, ne_eq, s.pcInRange_iff]
  omega

/-- Settles O26: table index PC − LA is k. -/
theorem stepExecutesTheFetchedInstruction : Obligations.StepExecutesTheFetchedInstruction := by
  unfold Obligations.StepExecutesTheFetchedInstruction
  intro s k w hrun hpc hw
  refine step_of_fetch hrun (fetch_eq_some_iff.mpr ⟨by omega, ?_⟩)
  rwa [hpc, Nat.add_sub_cancel_left]

/-- Settles O27: the next state is the one with the fatal condition raised, which touches nothing else. -/
theorem fetchOutsideTheProgramHalts : Obligations.FetchOutsideTheProgramHalts := by
  unfold Obligations.FetchOutsideTheProgramHalts
  intro s hrun houtside
  exact ⟨s.raiseFatal .pcOutOfBounds, step_of_failedFetch hrun (fetch_eq_none_iff_outside.mpr houtside),
    rfl, rfl, rfl, rfl, rfl, rfl, ⟨rfl, rfl, rfl⟩, ⟨rfl, rfl, rfl, rfl⟩, fun _ => rfl⟩

/-- Settles O30: the other outcome of a step needs FATAL. -/
theorem everyStepCompletesUnderAbsorb : Obligations.EveryStepCompletesUnderAbsorb := by
  unfold Obligations.EveryStepCompletesUnderAbsorb
  intro s habsorb
  obtain hnext | ⟨hfatal, -⟩ := step_completesOrFaultsAbsent s
  · exact hnext
  · rw [habsorb] at hfatal
    cases hfatal

/-! The next PC. -/

/-- Where an instruction sends PC (R61). -/
def nextPc (i : Instr) (s : State) : Addr :=
  match i with
  | .jmp n => s.relative n
  | .cjmp n => if s.flag = .gt then s.relative n else s.pc + 1
  | _ => s.pc + 1

theorem exec_pc {i : Instr} {s t : State} (h : exec i s = .next t) : t.pc = nextPc i s := by
  rw [exec_next_iff] at h
  cases i with
  | cjmp n =>
    obtain rfl := h
    exact apply_ite State.pc _ _ _
  | loadm n | cmpm n | addm n | subm n | mulm n =>
    obtain ⟨-, rfl⟩ := h
    exact congrArg (· + 1) (s.afterRead_pc (s.relative n))
  | store n =>
    obtain ⟨-, rfl⟩ := h
    exact congrArg (· + 1) (s.afterWrite_pc (s.relative n) s.acLow)
  | start x | load n | jmp n | add n | sub n | mul n | disp x | halt x | illegal15 x =>
    obtain rfl := h
    rfl

/-- A word fetched from a program that fits lies below 65536, so the next address has its 17 bits (D3). -/
theorem pc_succ_toNat_of_fetch {s : State} {w : Word} (hfits : s.ProgramFits) (hw : fetch s = some w) :
    (s.pc + 1).toNat = s.pc.toNat + 1 := by
  obtain ⟨hla, hentry⟩ := fetch_eq_some_iff.mp hw
  have hindex : s.pc.toNat - s.la.toNat < s.n := (List.getElem?_eq_some_iff.mp hentry).1
  have h1 : (1 : Addr).toNat = 1 := rfl
  rw [BitVec.toNat_add, h1]
  omega

/-- Settles O29: neither the jump target nor PC + 1 wraps. -/
theorem nextPcIsExact : Obligations.NextPcIsExact := by
  unfold Obligations.NextPcIsExact
  intro s t w hfits hrun hw h _
  have hsucc := pc_succ_toNat_of_fetch hfits hw
  rw [step_of_fetch hrun hw] at h
  rw [exec_pc h]
  cases decode w with
  | jmp n => exact s.relative_toNat n
  | cjmp n => rw [nextPc, apply_ite BitVec.toNat, s.relative_toNat, hsucc]
  | _ => exact hsucc

/-! The end of a run. -/

/-- Only HALT and opcode 15 stop the engine, each with its reason (R81, R84). -/
theorem exec_halted_cases {i : Instr} {s t : State} (h : exec i s = .next t) :
    t.halted = s.halted ∨ (∃ x, i = .halt x ∧ t.haltReason = .halt) ∨
      (∃ x, i = .illegal15 x ∧ t.haltReason = .unknownOpcode) := by
  rw [exec_next_iff] at h
  cases i with
  | halt x =>
    obtain rfl := h
    exact .inr (.inl ⟨x, rfl, rfl⟩)
  | illegal15 x =>
    obtain rfl := h
    exact .inr (.inr ⟨x, rfl, rfl⟩)
  | loadm n | cmpm n | addm n | subm n | mulm n =>
    obtain ⟨-, rfl⟩ := h
    exact .inl (s.afterRead_halted (s.relative n))
  | store n =>
    obtain ⟨-, rfl⟩ := h
    exact .inl (s.afterWrite_halted (s.relative n) s.acLow)
  | cjmp n =>
    obtain rfl := h
    split <;> exact .inl rfl
  | start x | load n | jmp n | add n | sub n | mul n | disp x =>
    obtain rfl := h
    exact .inl rfl

/-- Settles O32: a running engine stops in a failed fetch or in one of the two instructions that stop it. -/
theorem runsEndOnlyInThreeWays : Obligations.RunsEndOnlyInThreeWays := by
  unfold Obligations.RunsEndOnlyInThreeWays
  intro s t hrun h hstopped
  obtain ⟨hhalted, -⟩ | ⟨-, hrange, rfl⟩ | ⟨-, w, hw, hexec⟩ := step_next_cases h
  · rw [hrun] at hhalted
    cases hhalted
  · exact .inl ⟨fetch_eq_none_iff.mpr hrange, rfl⟩
  · obtain hsame | ⟨x, hx, hreason⟩ | ⟨x, hx, hreason⟩ := exec_halted_cases hexec
    · rw [hstopped, hrun] at hsame
      cases hsame
    · exact .inr (.inl ⟨w, x, hw, hx, hreason⟩)
    · exact .inr (.inr ⟨w, x, hw, hx, hreason⟩)

end Sys2Proof.Machine
end

section
/-! SUPPORT. The full effect of one `CacheRead` and of one `CacheWrite` (spec/20_memory.md R36, R37, R41), and with it
LOAD, LOADM and STORE (spec/41_load_store.md R66 to R68). -/
namespace Sys2Proof.Machine

/-! The frame of an instruction that puts a value in AC. -/

theorem immediate_toNat (n : Operand) : (immediate n).toNat = n.toNat :=
  BitVec.toNat_setWidth_of_le (by decide)

theorem State.onlyAcPc_setAc_advance (s : State) (v : Word) : OnlyAcPc s (s.setAc v).advance :=
  ⟨rfl, rfl, ⟨rfl, rfl, rfl⟩, ⟨rfl, rfl⟩, ⟨rfl, rfl, rfl, rfl⟩, fun _ => rfl⟩

/-- Settles O9: the 12 bits of the operand fit in AC. -/
theorem loadSetsAcToOperand : Obligations.LoadSetsAcToOperand := by
  unfold Obligations.LoadSetsAcToOperand
  exact fun s n => ⟨(s.setAc (immediate n)).advance, rfl, immediate_toNat n, rfl, s.onlyAcPc_setAc_advance _⟩

/-! `CacheRead`. -/

theorem State.afterRead_sameRunState (s : State) (ea : Addr) : SameRunState s (s.afterRead ea) :=
  ⟨s.afterRead_halted ea, s.afterRead_haltReason ea⟩

theorem State.afterRead_readEffect (s : State) (ea : Addr) : ReadEffect s ea (s.afterRead ea) := by
  refine ⟨fun a => by rw [s.afterRead_mem], ?_⟩
  split
  case isTrue hhit =>
    rw [afterRead_of_hit hhit]
    exact ⟨rfl, rfl, rfl, rfl, rfl⟩
  case isFalse hmiss =>
    rw [afterRead_of_miss (Bool.eq_false_iff.mpr hmiss)]
    exact ⟨rfl, rfl, rfl, rfl, rfl⟩

/-- Settles O15: where its `CacheRead` completes, LOADM adds to the effect of the read only AC and PC. -/
theorem loadmLoadsTheByteZeroExtended : Obligations.LoadmLoadsTheByteZeroExtended := by
  unfold Obligations.LoadmLoadsTheByteZeroExtended
  intro s n hcompletes
  exact ⟨_, withMemoryByte_next_iff.mpr ⟨hcompletes, rfl⟩, zext16_toNat _, congrArg (· + 1) (s.afterRead_pc _),
    s.afterRead_flag _, s.afterRead_readEffect _, s.afterRead_sameConfiguration _, s.afterRead_sameRunState _⟩

/-! `CacheWrite`. -/

theorem State.acLow_toNat (s : State) : s.acLow.toNat = s.ac.toNat % 256 :=
  BitVec.toNat_setWidth 8 s.ac

theorem State.afterWrite_sameRunState (s : State) (ea : Addr) (b : Byte) : SameRunState s (s.afterWrite ea b) :=
  ⟨s.afterWrite_halted ea b, s.afterWrite_haltReason ea b⟩

/-- In canonical memory a `CacheWrite` gives its own address the byte written, where Memory has it, and no other. -/
theorem State.read_mem_afterWrite {s : State} (hm : s.MemoryCanonical) (ea : Addr) (b : Byte) (a : Nat) :
    (s.afterWrite ea b).mem.read a = if a = ea.toNat ∧ ea.toNat < 65536 then b else s.mem.read a := by
  rw [s.afterWrite_mem]
  by_cases hpresent : ea.toNat < 65536
  · rw [if_pos hpresent]
    by_cases ha : a = ea.toNat
    · rw [if_pos ⟨ha, hpresent⟩, ha, Memory.read_write_same hm]
    · rw [if_neg fun h => ha h.1, Memory.read_write_other s.mem b ha]
  · rw [if_neg hpresent, if_neg fun h => hpresent h.2]

/-- A Memory write leaves what the Memory answers for every other address. -/
theorem State.memoryByte_afterMemWrite_of_ne (s : State) {a ea : Addr} (b : Byte) (hne : a ≠ ea) :
    (s.afterMemWrite ea b).memoryByte a = s.memoryByte a := by
  unfold State.afterMemWrite
  split
  · rw [State.memoryByte, State.setMem_mem,
      Memory.read_write_other s.mem b fun hv => hne (BitVec.eq_of_toNat_eq hv), ← State.memoryByte]
  · rfl

/-- Once its byte of `ea` is set, a line filled after a Memory write to `ea` is the line filled before it: the write
changed no other byte of the block (R37). -/
theorem State.setByte_filledLine_afterMemWrite (s : State) (ea : Addr) (b v : Byte) :
    ((s.afterMemWrite ea b).filledLine ea).setByte (addrOffset ea) v =
      (s.filledLine ea).setByte (addrOffset ea) v := by
  have hea := blockStart_or_succ ea
  have hne : blockStart ea ≠ blockStart ea + 1 := fun h => by
    have := congrArg BitVec.toNat h
    rw [blockStart_toNat, blockStart_succ_toNat] at this
    omega
  unfold State.filledLine CacheLine.setByte
  split
  case isTrue ho =>
    rw [if_pos ho] at hea
    rw [s.memoryByte_afterMemWrite_of_ne b fun h => hne (hea.symm.trans h.symm)]
  case isFalse ho =>
    rw [if_neg ho] at hea
    rw [s.memoryByte_afterMemWrite_of_ne b fun h => hne (h.trans hea)]

theorem State.afterWrite_lines_of_hit {s : State} {ea : Addr} (b : Byte) (hhit : s.isHit ea = true) :
    (s.afterWrite ea b).lines = s.lines.set (addrIndex ea) ((s.lineOf ea).setByte (addrOffset ea) b) := by
  rw [State.afterWrite, if_pos hhit, State.setCachedByte, State.lineOf, State.setLine_lines, State.countHit_lines,
    s.afterMemWrite_lines, ← State.lineOf]

/-- On a miss the byte goes into the filled line, which replaces what the line held. -/
theorem State.afterWrite_lines_of_miss {s : State} {ea : Addr} (b : Byte) (hmiss : ¬ s.isHit ea = true) :
    (s.afterWrite ea b).lines = s.lines.set (addrIndex ea) ((s.filledLine ea).setByte (addrOffset ea) b) := by
  have hfill : ((s.afterMemWrite ea b).countMiss.afterFill ea).lines =
      s.lines.set (addrIndex ea) ((s.afterMemWrite ea b).filledLine ea) :=
    congrArg (Vector.set · (addrIndex ea) _ (addrIndex ea).isLt) (s.afterMemWrite_lines ea b)
  have hline : ((s.afterMemWrite ea b).countMiss.afterFill ea).lineOf ea = (s.afterMemWrite ea b).filledLine ea :=
    State.lineOf_afterFill _ ea
  rw [State.afterWrite, if_neg hmiss, State.setCachedByte, State.setLine_lines, hline, hfill, Vector.set_set,
    s.setByte_filledLine_afterMemWrite]

/-- Where all events logged are Diag events, all are counted. -/
theorem State.LogsEvents.count_of_isDiag {s t : State} {es : List Event} (h : s.LogsEvents es t)
    (hdiag : ∀ e ∈ es, e.isDiag = true) : t.oobCount = s.oobCount + es.length := by
  rw [h.2, List.countP_eq_length.mpr hdiag]

theorem State.afterWrite_writeEffect {s : State} (hm : s.MemoryCanonical) (ea : Addr) (b : Byte) :
    WriteEffect s ea b (s.afterWrite ea b) := by
  have hcount := (s.afterWrite_logs ea b).count_of_isDiag fun _ => State.isDiag_of_mem_writeEvents
  obtain ⟨hevents, -⟩ := s.afterWrite_logs ea b
  rw [State.writeEvents, State.readEvents] at hevents hcount
  refine ⟨read_mem_afterWrite hm ea b, ?_⟩
  -- past the statement's local name for `memWriteEvents ea`
  change if s.isHit ea then _ else _
  split
  case isTrue hhit =>
    rw [if_pos hhit, List.append_nil] at hevents hcount
    refine ⟨?_, ?_, afterWrite_lines_of_hit b hhit, hcount, hevents⟩
    · rw [State.afterWrite, if_pos hhit]
      exact congrArg (· + 1) (s.afterMemWrite_hits ea b)
    · rw [State.afterWrite, if_pos hhit]
      exact s.afterMemWrite_misses ea b
  case isFalse hmiss =>
    rw [if_neg hmiss] at hevents hcount
    refine ⟨?_, ?_, afterWrite_lines_of_miss b hmiss, hcount, hevents⟩
    · rw [State.afterWrite, if_neg hmiss]
      exact s.afterMemWrite_hits ea b
    · rw [State.afterWrite, if_neg hmiss]
      exact congrArg (· + 1) (s.afterMemWrite_misses ea b)

/-- Settles O20: where its `CacheWrite` completes, STORE adds to the effect of the write only PC. -/
theorem storeWritesTheLowByteThroughTheCache : Obligations.StoreWritesTheLowByteThroughTheCache := by
  unfold Obligations.StoreWritesTheLowByteThroughTheCache
  intro s n hm hcompletes
  exact ⟨_, execStore_next_iff.mpr ⟨hcompletes, rfl⟩, ⟨s.acLow, s.acLow_toNat, State.afterWrite_writeEffect hm _ _⟩,
    s.afterWrite_ac _ _, congrArg (· + 1) (s.afterWrite_pc _ _), s.afterWrite_flag _ _,
    s.afterWrite_sameConfiguration _ _, s.afterWrite_sameRunState _ _⟩

end Sys2Proof.Machine
end

section
/-! SUPPORT. CMPM, CJMP and JMP (spec/42_compare_jump.md R69 to R71). -/
namespace Sys2Proof.Machine

/-! The comparison of CMPM. -/

/-- The comparison is that of the unsigned values, of whose three orders exactly one holds (R69). -/
theorem compareBytes_cases (a m : Byte) :
    (compareBytes a m = .gt ∧ a.toNat > m.toNat) ∨ (compareBytes a m = .eq ∧ a.toNat = m.toNat) ∨
      (compareBytes a m = .lt ∧ a.toNat < m.toNat) := by
  unfold compareBytes
  split
  case isTrue hgt => exact .inl ⟨rfl, hgt⟩
  case isFalse hle =>
    split
    case isTrue heq => exact .inr (.inl ⟨rfl, congrArg BitVec.toNat heq⟩)
    case isFalse hne =>
      have hne' : a.toNat ≠ m.toNat := fun h => hne (BitVec.eq_of_toNat_eq h)
      exact .inr (.inr ⟨rfl, by omega⟩)

theorem compareBytes_iff (a m : Byte) :
    (compareBytes a m = .gt ↔ a.toNat > m.toNat) ∧ (compareBytes a m = .eq ↔ a.toNat = m.toNat) ∧
      (compareBytes a m = .lt ↔ a.toNat < m.toNat) := by
  obtain ⟨hflag, horder⟩ | ⟨hflag, horder⟩ | ⟨hflag, horder⟩ := compareBytes_cases a m
  all_goals
    simp only [hflag, reduceCtorEq, true_iff, false_iff]
    omega

/-- Settles O19: where its `CacheRead` completes, CMPM adds to the effect of the read only FLAG and PC. -/
theorem cmpmComparesLowByteUnsigned : Obligations.CmpmComparesLowByteUnsigned := by
  unfold Obligations.CmpmComparesLowByteUnsigned
  intro s n hcompletes
  obtain ⟨hgt, heq, hlt⟩ := compareBytes_iff s.acLow (s.readByte (s.relative n))
  rw [s.acLow_toNat] at hgt heq hlt
  exact ⟨_, withMemoryByte_next_iff.mpr ⟨hcompletes, rfl⟩, hgt, heq, hlt, s.afterRead_ac _,
    congrArg (· + 1) (s.afterRead_pc _), s.afterRead_readEffect _, s.afterRead_sameConfiguration _,
    s.afterRead_sameRunState _⟩

/-! The jumps. -/

theorem State.onlyAcPc_setPc (s : State) (a : Addr) : OnlyAcPc s (s.setPc a) :=
  ⟨rfl, rfl, ⟨rfl, rfl, rfl⟩, ⟨rfl, rfl⟩, ⟨rfl, rfl, rfl, rfl⟩, fun _ => rfl⟩

/-- Taken or not, CJMP writes only PC. -/
theorem exec_cjmp (n : Operand) (s : State) : exec (.cjmp n) s = .next (s.setPc (nextPc (.cjmp n) s)) :=
  congrArg Host.Outcome.next (apply_ite s.setPc _ _ _).symm

/-- A jump of a running engine to LA + operand with operand ≥ N leads to a fetch that fails (R59, R70, R71). -/
theorem step_setPc_relative_outside {s : State} {n : Operand} (hrun : s.halted = false)
    (hout : s.imem.length ≤ n.toNat) :
    step (s.setPc (s.relative n)) = .next ((s.setPc (s.relative n)).raiseFatal .pcOutOfBounds) := by
  refine step_of_failedFetch hrun (fetch_eq_none_iff_outside.mpr (.inr ?_))
  rw [State.setPc_la, State.setPc_imem, State.setPc_pc, s.relative_toNat]
  omega

/-- Settles O13: the 17-bit target is the exact sum, and PC is all that JMP writes. -/
theorem jmpGoesToLaPlusOperand : Obligations.JmpGoesToLaPlusOperand := by
  unfold Obligations.JmpGoesToLaPlusOperand
  exact fun s n => ⟨s.setPc (s.relative n), rfl, s.relative_toNat n, rfl, s.onlyAcPc_setPc _,
    fun hrun hout => ⟨_, step_setPc_relative_outside hrun hout, rfl, rfl⟩⟩

/-- Settles O14: FLAG decides between the two next PCs, and PC is all that CJMP writes. -/
theorem cjmpIsTakenExactlyOnGreater : Obligations.CjmpIsTakenExactlyOnGreater := by
  unfold Obligations.CjmpIsTakenExactlyOnGreater
  intro s n
  have htaken : s.flag = .gt → nextPc (.cjmp n) s = s.relative n := fun hgt => if_pos hgt
  refine ⟨_, exec_cjmp n s, rfl, s.onlyAcPc_setPc _, fun hne => if_neg hne, fun hgt => ?_, fun hgt hrun hout => ?_⟩
  · rw [htaken hgt]
    exact s.relative_toNat n
  · rw [htaken hgt]
    exact ⟨_, step_setPc_relative_outside hrun hout, rfl, rfl⟩

end Sys2Proof.Machine
end

section
/-! SUPPORT. ADD, ADDM, SUB, SUBM, MUL and MULM, and sequences of ADD, SUB, MUL and LOAD (spec/43_arithmetic.md R72 to
R78). -/
namespace Sys2Proof.Machine

/-! The 16-bit operations, by the value of their second operand: an `immediate` or a `zext16` (R72). -/

section
variable {b : Word} {m : Nat} (a : Word) (hb : b.toNat = m)
include hb

theorem toNat_add_of_toNat_eq : (a + b).toNat = (a.toNat + m) % 65536 :=
  hb ▸ BitVec.toNat_add a b

theorem toNat_sub_of_toNat_eq : ((a - b).toNat : Int) = ((a.toNat : Int) - m) % 65536 := by
  have hlt := b.isLt
  rw [BitVec.toNat_sub]
  omega

theorem toNat_mul_of_toNat_eq : (a * b).toNat = (a.toNat * m) % 65536 :=
  hb ▸ BitVec.toNat_mul a b

end

/-! The immediate forms. -/

/-- Settles O10: ADD puts a 16-bit sum in AC, and AC and PC are all that it writes. -/
theorem addAddsOperandMod65536 : Obligations.AddAddsOperandMod65536 := by
  unfold Obligations.AddAddsOperandMod65536
  exact fun s n => ⟨_, rfl, toNat_add_of_toNat_eq s.ac (immediate_toNat n), rfl, s.onlyAcPc_setAc_advance _⟩

/-- Settles O11: SUB puts a 16-bit difference in AC, and AC and PC are all that it writes. -/
theorem subSubtractsOperandMod65536 : Obligations.SubSubtractsOperandMod65536 := by
  unfold Obligations.SubSubtractsOperandMod65536
  exact fun s n => ⟨_, rfl, toNat_sub_of_toNat_eq s.ac (immediate_toNat n), rfl, s.onlyAcPc_setAc_advance _⟩

/-- Settles O12: MUL puts the low 16 bits of the product in AC, and AC and PC are all that it writes. -/
theorem mulMultipliesByOperandMod65536 : Obligations.MulMultipliesByOperandMod65536 := by
  unfold Obligations.MulMultipliesByOperandMod65536
  exact fun s n => ⟨_, rfl, toNat_mul_of_toNat_eq s.ac (immediate_toNat n), rfl, s.onlyAcPc_setAc_advance _⟩

/-! The forms that read one byte through the cache. -/

/-- The frame of a byte-reading instruction that puts a value in AC: beyond the effect of its `CacheRead` it writes only
AC and PC. -/
theorem State.setAc_afterRead_frame (s : State) (ea : Addr) (v : Word) :
    ((s.afterRead ea).setAc v).advance.pc = s.pc + 1 ∧ ((s.afterRead ea).setAc v).advance.flag = s.flag ∧
      ReadEffect s ea ((s.afterRead ea).setAc v).advance ∧ SameConfiguration s ((s.afterRead ea).setAc v).advance ∧
      SameRunState s ((s.afterRead ea).setAc v).advance :=
  ⟨congrArg (· + 1) (s.afterRead_pc ea), s.afterRead_flag ea, s.afterRead_readEffect ea,
    s.afterRead_sameConfiguration ea, s.afterRead_sameRunState ea⟩

/-- Settles O16: where its `CacheRead` completes, ADDM is ADD of the byte read. -/
theorem addmAddsTheByteMod65536 : Obligations.AddmAddsTheByteMod65536 := by
  unfold Obligations.AddmAddsTheByteMod65536
  exact fun s n hcompletes => ⟨_, withMemoryByte_next_iff.mpr ⟨hcompletes, rfl⟩,
    toNat_add_of_toNat_eq s.ac (zext16_toNat _), s.setAc_afterRead_frame _ _⟩

/-- Settles O17: where its `CacheRead` completes, SUBM is SUB of the byte read. -/
theorem submSubtractsTheByteMod65536 : Obligations.SubmSubtractsTheByteMod65536 := by
  unfold Obligations.SubmSubtractsTheByteMod65536
  exact fun s n hcompletes => ⟨_, withMemoryByte_next_iff.mpr ⟨hcompletes, rfl⟩,
    toNat_sub_of_toNat_eq s.ac (zext16_toNat _), s.setAc_afterRead_frame _ _⟩

/-- Settles O18: where its `CacheRead` completes, MULM is MUL by the byte read. -/
theorem mulmMultipliesByTheByteMod65536 : Obligations.MulmMultipliesByTheByteMod65536 := by
  unfold Obligations.MulmMultipliesByTheByteMod65536
  exact fun s n hcompletes => ⟨_, withMemoryByte_next_iff.mpr ⟨hcompletes, rfl⟩,
    toNat_mul_of_toNat_eq s.ac (zext16_toNat _), s.setAc_afterRead_frame _ _⟩

/-! Sequences of the immediate forms. -/

/-- ADD, SUB, MUL and LOAD respect residues: where AC holds an exact integer modulo 65536, they complete with AC
holding the exact result modulo 65536 (R72). -/
theorem exec_of_exactResult {i : Instr} {s : State} {v v' : Int} (hi : exactResult i v = some v')
    (hac : (s.ac.toNat : Int) = v % 65536) :
    ∃ t, exec i s = .next t ∧ (t.ac.toNat : Int) = v' % 65536 ∧ t.flag = s.flag := by
  cases i with
  | load n =>
    cases hi
    obtain ⟨t, hexec, hac', -, hflag, -⟩ := loadSetsAcToOperand s n
    exact ⟨t, hexec, by omega, hflag⟩
  | add n =>
    cases hi
    obtain ⟨t, hexec, hac', -, hflag, -⟩ := addAddsOperandMod65536 s n
    exact ⟨t, hexec, by omega, hflag⟩
  | sub n =>
    cases hi
    obtain ⟨t, hexec, hac', -, hflag, -⟩ := subSubtractsOperandMod65536 s n
    exact ⟨t, hexec, by omega, hflag⟩
  | mul n =>
    cases hi
    obtain ⟨t, hexec, hac', -, hflag, -⟩ := mulMultipliesByOperandMod65536 s n
    refine ⟨t, hexec, ?_, hflag⟩
    rw [hac', Int.natCast_emod, Int.natCast_mul, hac]
    exact (Int.mod_modEq v 65536).mul_right _
  | _ => cases hi

/-- The reductions along the way do not show: a sequence may start from any exact integer that AC holds modulo 65536. -/
theorem execAll_of_exactResults {is : List Instr} {s : State} {v v' : Int} (his : exactResults is v = some v')
    (hac : (s.ac.toNat : Int) = v % 65536) :
    ∃ t, execAll is s = .next t ∧ (t.ac.toNat : Int) = v' % 65536 ∧ t.flag = s.flag := by
  induction is generalizing s v with
  | nil =>
    cases his
    exact ⟨s, rfl, hac, rfl⟩
  | cons i is ih =>
    cases hi : exactResult i v with
    | none => simp [exactResults, hi] at his
    | some w =>
      simp only [exactResults, hi] at his
      obtain ⟨t, hexec, hac', hflag⟩ := exec_of_exactResult hi hac
      obtain ⟨u, hrest, hac'', hflag'⟩ := ih his hac'
      exact ⟨u, by simp only [execAll, hexec, hrest], hac'', hflag'.trans hflag⟩

/-- Settles O51, by induction on the sequence: the 16 bits of AC are their own residue at the start. -/
theorem immediateSequencesComputeMod65536 : Obligations.ImmediateSequencesComputeMod65536 := by
  unfold Obligations.ImmediateSequencesComputeMod65536
  intro is s v his
  have hlt := s.ac.isLt
  exact execAll_of_exactResults his (by omega)

end Sys2Proof.Machine
end

section
/-! SUPPORT. START, DISP and HALT (spec/44_system.md R79 to R81). -/
namespace Sys2Proof.Machine

/-- An instruction that accesses no data memory leaves the configuration, the cache and data memory alone. -/
theorem exec_frame_of_not_refersToMemory {i : Instr} {s t : State} (hi : i.refersToMemory = false)
    (h : exec i s = .next t) : SameConfiguration s t ∧ SameCache s t ∧ SameMemory s t := by
  refine ⟨exec_sameConfiguration h, ?_⟩
  obtain ⟨-, hcache, hmem⟩ | ⟨href, -⟩ | ⟨n, rfl, -⟩ := exec_storage_cases h
  · exact ⟨hcache, fun a => by rw [hmem]⟩
  · rw [hi] at href
    cases href
  · cases hi

/-- Settles O8: START writes only PC. -/
theorem startOnlyAdvancesPc : Obligations.StartOnlyAdvancesPc := by
  unfold Obligations.StartOnlyAdvancesPc
  exact fun s x => ⟨s.advance, rfl, rfl, rfl, s.onlyAcPc_setPc _⟩

/-- Settles O21: beyond PC, DISP writes only the event stream. -/
theorem dispOnlyEmitsOneDisplayEvent : Obligations.DispOnlyEmitsOneDisplayEvent := by
  unfold Obligations.DispOnlyEmitsOneDisplayEvent
  intro s x
  have hexec : exec (.disp x) s = .next (s.emit (.display s.ac)).advance := rfl
  obtain ⟨hconfig, hcache, hmem⟩ := exec_frame_of_not_refersToMemory rfl hexec
  exact ⟨_, hexec, ⟨s.ac, rfl⟩, rfl, rfl, rfl, hconfig, ⟨rfl, rfl⟩, hcache, hmem⟩

/-- Settles O22: beyond PC, HALT writes only the run state and the halt reason. -/
theorem haltStopsAndKeepsTheResult : Obligations.HaltStopsAndKeepsTheResult := by
  unfold Obligations.HaltStopsAndKeepsTheResult
  intro s x
  have hexec : exec (.halt x) s = .next (s.stop .halt).advance := rfl
  obtain ⟨hconfig, hcache, hmem⟩ := exec_frame_of_not_refersToMemory rfl hexec
  exact ⟨_, hexec, rfl, rfl, rfl, rfl, rfl, hconfig, hcache, hmem⟩

end Sys2Proof.Machine
end

section
/-! SUPPORT. Opcode 15, the instruction that raises UnknownOpcode (R84). -/
namespace Sys2Proof.Machine

/-- Settles O23: raising UnknownOpcode writes the run state, the halt reason and the event stream, and the step beyond
that only PC. -/
theorem unknownOpcodeHaltsAndReports : Obligations.UnknownOpcodeHaltsAndReports := by
  unfold Obligations.UnknownOpcodeHaltsAndReports
  intro s x
  have hexec : exec (.illegal15 x) s = .next (s.raiseFatal .unknownOpcode).advance := rfl
  obtain ⟨hconfig, hcache, hmem⟩ := exec_frame_of_not_refersToMemory rfl hexec
  exact ⟨_, hexec, rfl, rfl, rfl, rfl, rfl, hconfig, hcache, hmem⟩

end Sys2Proof.Machine
end

section
/-! SUPPORT. Reset (spec/70_reset_and_hazards.md R98): what a launch leaves in PC and in the cache, and that a
well-formed launch meets the invariant. -/
namespace Sys2Proof.Machine

theorem State.ofLaunch_pc_toNat (l : Launch) : (State.ofLaunch l).pc.toNat = l.pc0.toNat :=
  BitVec.toNat_setWidth_of_le (by decide)

theorem State.ofLaunch_line (l : Launch) (i : Fin 8) : (State.ofLaunch l).lines[i] = CacheLine.empty :=
  Vector.getElem_replicate i.isLt

theorem State.ofLaunch_line_invalid (l : Launch) (i : Fin 8) : (State.ofLaunch l).lines[i].valid ≠ true := by
  rw [State.ofLaunch_line]
  exact nofun

/-- The launch has to supply the table's size and the memory's form; the empty cache, the empty event stream and the
width of PC0 give the rest of the invariant. -/
theorem State.ofLaunch_invariant {l : Launch} (hfits : l.tableFits = true) (hmem : l.memInit.wf = true) :
    (State.ofLaunch l).Invariant := by
  have hpc : (State.ofLaunch l).PcBounded := by
    have := l.pc0.isLt
    rw [State.PcBounded, State.ofLaunch_pc_toNat]
    omega
  have hcoherent : (State.ofLaunch l).Coherent := fun i hvalid => absurd hvalid (State.ofLaunch_line_invalid l i)
  have htags : (State.ofLaunch l).TagsBounded := fun i hvalid => absurd hvalid (State.ofLaunch_line_invalid l i)
  exact ⟨hmem, of_decide_eq_true hfits, hpc, iff_of_true rfl rfl, hcoherent, htags, rfl⟩

/-- Settles O40: PC is widened without loss and every line is the empty one; the other fields are the launch's own. -/
theorem resetStateHoldsTheLaunchValues : Obligations.ResetStateHoldsTheLaunchValues := by
  unfold Obligations.ResetStateHoldsTheLaunchValues
  intro l
  exact ⟨rfl, State.ofLaunch_pc_toNat l, rfl, rfl, rfl, rfl, rfl, State.ofLaunch_line l, rfl, rfl, rfl, rfl, rfl, rfl⟩

/-- Settles O42: a well-formed launch has the table and the memory the invariant asks for. -/
theorem everyLaunchMeetsTheInvariant : Obligations.EveryLaunchMeetsTheInvariant := by
  unfold Obligations.EveryLaunchMeetsTheInvariant
  intro l hwf
  obtain ⟨hfits, hmem⟩ := Bool.and_eq_true_iff.mp hwf
  exact State.ofLaunch_invariant hfits hmem

end Sys2Proof.Machine
end

section
/-! SUPPORT. The boot order (spec/70_reset_and_hazards.md R100, R101): a launch that is not refused is well formed. -/
namespace Sys2Proof.Machine

theorem bind_eq_ok_iff {ε α β : Type} {x : Except ε α} {f : α → Except ε β} {b : β} :
    (x >>= f) = .ok b ↔ ∃ a, x = .ok a ∧ f a = .ok b := by
  cases x with
  | error e => exact iff_of_false nofun (by rintro ⟨a, ⟨⟩, -⟩)
  | ok a => exact ⟨fun h => ⟨a, rfl, h⟩, by rintro ⟨_, ⟨⟩, h⟩; exact h⟩

/-- What every launch that is not refused has passed: the data writes and the check of the table's size. -/
theorem launchOf_ok {h : HostInput} {l : Launch} (hl : launchOf h = .ok l) :
    loadAllData h.data [] = .ok l.memInit ∧ l.tableFits = true := by
  obtain ⟨⟨la, pc0⟩, -, hl⟩ := bind_eq_ok_iff.mp hl
  obtain ⟨m, hdata, hl⟩ := bind_eq_ok_iff.mp hl
  dsimp only at hl
  split at hl
  · cases hl
    exact ⟨hdata, ‹_›⟩
  · cases hl

theorem boot_eq_ok_iff {h : HostInput} {s : State} :
    boot h = .ok s ↔ ∃ l, launchOf h = .ok l ∧ State.ofLaunch l = s := by
  simp only [boot, bind_eq_ok_iff, pure, Except.pure, Except.ok.injEq]

/-- Settles O43: the data writes keep an empty memory canonical, and the table's size is checked. -/
theorem everyBootMeetsTheInvariant : Obligations.EveryBootMeetsTheInvariant := by
  unfold Obligations.EveryBootMeetsTheInvariant
  intro h s hboot
  obtain ⟨l, hlaunch, rfl⟩ := boot_eq_ok_iff.mp hboot
  obtain ⟨hdata, hfits⟩ := launchOf_ok hlaunch
  exact State.ofLaunch_invariant hfits (loadAllData_wf Memory.wf_nil hdata)

end Sys2Proof.Machine
end

section
/-! SUPPORT. Program loading (spec/70_reset_and_hazards.md R102): which lines are valid, and what becomes of each line. -/
namespace Sys2Proof.Machine

theorem digitOf_isSome_iff (base : Nat) (c : Char) :
    (digitOf base c).isSome = true ↔ ∃ d, hexDigit c = some d ∧ d < base := by
  unfold digitOf
  split <;> simp [*]

theorem hexDigit_lt_two_iff (c : Char) : (∃ d, hexDigit c = some d ∧ d < 2) ↔ c.toNat = 48 ∨ c.toNat = 49 := by
  have hsome (k : Nat) : (∃ d, some k = some d ∧ d < 2) ↔ k < 2 := by simp
  unfold hexDigit
  dsimp only
  split_ifs with hdecimal hupper hlower
  · rw [hsome]
    omega
  · rw [hsome]
    omega
  · rw [hsome]
    omega
  · exact iff_of_false nofun (by omega)

theorem digitOf_two_isSome_iff (c : Char) : (digitOf 2 c).isSome = true ↔ c = '0' ∨ c = '1' := by
  rw [digitOf_isSome_iff, hexDigit_lt_two_iff, ← Char.toNat_inj, ← Char.toNat_inj]
  rfl

/-- A numeral is read exactly if each of its characters is a digit. -/
theorem readDigits_isSome_iff (base acc : Nat) (cs : List Char) :
    (readDigits base acc cs).isSome = true ↔ ∀ c ∈ cs, (digitOf base c).isSome = true := by
  induction cs generalizing acc with
  | nil => simp [readDigits]
  | cons c cs ih =>
    rw [readDigits, List.forall_mem_cons]
    cases digitOf base c with
    | none => simp
    | some d => simp [ih]

/-- The valid program lines. -/
theorem parseProgramLine_isSome_iff (cs : List Char) :
    (parseProgramLine cs).isSome = true ↔ cs.length = 16 ∧ ∀ c ∈ cs, c = '0' ∨ c = '1' := by
  unfold parseProgramLine
  split
  · next hlength =>
    have hne : cs ≠ [] := List.ne_nil_of_length_eq_add_one hlength
    simp only [Option.isSome_map, readNumeral_of_ne_nil 2 hne, readDigits_isSome_iff, digitOf_two_isSome_iff, hlength,
      true_and]
  · next hlength => exact iff_of_false nofun fun h => hlength h.1

/-! One line of a program: it joins the table, or is reported if it is not empty. -/

theorem loadLines_cons_of_valid {cs : List Char} {w : Word} (h : parseProgramLine cs = some w) (k : Nat)
    (rest : List (List Char)) :
    loadLines k (cs :: rest) = ⟨w :: (loadLines (k + 1) rest).imem, (loadLines (k + 1) rest).skipped⟩ := by
  rw [loadLines, h]

theorem loadLines_cons_of_invalid {cs : List Char} (h : parseProgramLine cs = none) (k : Nat)
    (rest : List (List Char)) :
    loadLines k (cs :: rest) = ⟨(loadLines (k + 1) rest).imem,
      if cs = [] then (loadLines (k + 1) rest).skipped else k :: (loadLines (k + 1) rest).skipped⟩ := by
  rw [loadLines, h]
  dsimp only
  split <;> rfl

theorem loadLines_imem (k : Nat) (lines : List (List Char)) :
    (loadLines k lines).imem = lines.filterMap parseProgramLine := by
  induction lines generalizing k with
  | nil => rfl
  | cons cs rest ih =>
    cases h : parseProgramLine cs with
    | none => rw [loadLines_cons_of_invalid h, List.filterMap_cons_none h, ih]
    | some w => rw [loadLines_cons_of_valid h, List.filterMap_cons_some h, ih]

theorem mem_loadLines_cons_skipped_iff (k j : Nat) (cs : List Char) (rest : List (List Char)) :
    j ∈ (loadLines k (cs :: rest)).skipped ↔
      (j = k ∧ cs ≠ [] ∧ parseProgramLine cs = none) ∨ j ∈ (loadLines (k + 1) rest).skipped := by
  cases h : parseProgramLine cs with
  | none =>
    rw [loadLines_cons_of_invalid h]
    by_cases hempty : cs = [] <;> simp [hempty]
  | some w => simp [loadLines_cons_of_valid h]

/-- The lines reported, where the first line has number `k`. -/
theorem mem_loadLines_skipped_iff (k j : Nat) (lines : List (List Char)) :
    j ∈ (loadLines k lines).skipped ↔
      ∃ cs, (cs, j) ∈ lines.zipIdx k ∧ cs ≠ [] ∧ parseProgramLine cs = none := by
  induction lines generalizing k with
  | nil => simp [loadLines]
  | cons cs rest ih =>
    rw [mem_loadLines_cons_skipped_iff, ih]
    simp only [List.zipIdx_cons, List.mem_cons, Prod.mk.injEq, or_and_right, exists_or, and_assoc, exists_eq_left]

/-- Settles O54: each line is parsed on its own, and the loader goes on with the next number, from 0 on by the
model's choice (notes/assumptions/14.md). -/
theorem validLinesBecomeTheTableWithNoGap : Obligations.ValidLinesBecomeTheTableWithNoGap := by
  unfold Obligations.ValidLinesBecomeTheTableWithNoGap
  refine ⟨parseProgramLine_isSome_iff, loadLines_imem 0, fun lines k => ?_⟩
  simp only [loadProgram, mem_loadLines_skipped_iff, List.mk_mem_zipIdx_iff_getElem?]

end Sys2Proof.Machine
end

section
/-! SUPPORT. The two ends of a run: the reset state as a launch (spec/70_reset_and_hazards.md R98), and the step of a
halted engine (spec/40_execution_cycle.md R57). -/
namespace Sys2Proof.Machine

/-- Settles O28: `step` asks first whether the engine is halted, and then answers the state it got, by the model's
choice (notes/assumptions/2.md). -/
theorem haltedEngineStaysAsItIs : Obligations.HaltedEngineStaysAsItIs := by
  unfold Obligations.HaltedEngineStaysAsItIs
  intro s hhalted
  rw [step, if_pos hhalted]

/-- The launch of the model's reset state is in the ranges of R8. -/
theorem bareLaunch_wf : bareLaunch.wf = true := by decide

/-- Settles O41: the reset state is that of a well-formed launch, and each of those meets the invariant. -/
theorem resetMeetsTheInvariant : Obligations.ResetMeetsTheInvariant := by
  unfold Obligations.ResetMeetsTheInvariant State.reset
  exact everyLaunchMeetsTheInvariant bareLaunch bareLaunch_wf

end Sys2Proof.Machine
end
